-- ==== Sys2Proof/Word.lean ====
section
/-! DEFINITION. The word types of MODEXP-RM. -/

namespace Sys2Proof

/-- The width `XLEN` of every data register and slot: 64 bits, unsigned (`00_scope.md` R5, `10_state.md` R10). -/
abbrev Word := BitVec 64

/-- A 4-bit code: `phase`, `err`, `fphase`, the `op` field of a command word (R21, R24, R25, R60). -/
abbrev Code := BitVec 4

end Sys2Proof
end

