-- ==== Sys2Proof/Config.lean ====
section
/-! DEFINITION. The two parameters the spec leaves open (`00_scope.md` R5, D16). They have no body, and no rule
reads either: they stand here so that nobody takes a value for granted (log entry 10). -/

namespace Sys2Proof.Config

/-- `REG_BASE`: where the platform puts the sixteen slots (R40, V13). OPEN; read by no rule. -/
opaque regBase : Nat

/-- `REG_BYTE_ORDER`: which byte of a slot stands at which of its eight byte addresses, if the platform maps
the slots onto bytes (R42, V13). OPEN; read by no rule. -/
opaque regByteOrder : Fin 8 → Fin 8

end Sys2Proof.Config
end

