-- ==== Sys2Proof/Syntax.lean ====
section
/-! DEFINITION. The instructions: one constructor per row of spec/opcode_table.json. -/

namespace Sys2Proof

/-- The two commands (format `CMD`, `30_encoding.md` R61) and the eleven micro-steps (format `PHASE`, R65).
None has an operand field: a command's operands are the registers `A`, `D`, `N` (R60). -/
inductive Instr where
  /-- `EXPMOD`, command word 0x1 (R80). -/
  | expmod
  /-- `RMTEST`, command word 0x2 (R110). -/
  | rmtest
  /-- `X_START`, phase code 1 (R81). -/
  | xStart
  /-- `X_REDA`, phase code 2 (R82). -/
  | xReda
  /-- `X_MUL`, phase code 3 (R83). -/
  | xMul
  /-- `X_REDR`, phase code 4 (R84). -/
  | xRedr
  /-- `RM_CHECK`, phase code 5 (R112). -/
  | rmCheck
  /-- `RM_DECOMP`, phase code 6 (R113). -/
  | rmDecomp
  /-- `RM_DRAW`, phase code 7 (R116, R117). -/
  | rmDraw
  /-- `RM_FIRST`, phase code 8 (R120). -/
  | rmFirst
  /-- `RM_SQ`, phase code 9 (R121). -/
  | rmSq
  /-- `RM_SQRED`, phase code 10 (R122). -/
  | rmSqred
  /-- `RM_VERDICT`, phase code 11 (R123). -/
  | rmVerdict
deriving DecidableEq, Repr

end Sys2Proof
end

