-- ==== Sys2Proof/WellFormed.lean ====
section
/-! DEFINITION. Well-formedness. An instruction of this block has no operand field (R60, R65), so no term of
`Instr` is ill formed; what can be ill formed is the word that should stand for one. -/

namespace Sys2Proof

/-- Every instruction is well formed: there is no register field, immediate or mode bit to check (R60). -/
def Instr.wellFormed : Instr → Bool
  | .expmod => true
  | .rmtest => true
  | .xStart => true
  | .xReda => true
  | .xMul => true
  | .xRedr => true
  | .rmCheck => true
  | .rmDecomp => true
  | .rmDraw => true
  | .rmFirst => true
  | .rmSq => true
  | .rmSqred => true
  | .rmVerdict => true

/-- The command words of the opcode map: the whole word is 1 or 2 (R61, last sentence). -/
def commandWellFormed (v : Word) : Bool := v == 1#64 || v == 2#64

/-- The phase codes that select a micro-step or the hold: 1 to 11 (R65). -/
def phaseCodeWellFormed (c : Code) : Bool := decide (1 ≤ c.toNat) && decide (c.toNat ≤ 11)

end Sys2Proof
end

