-- ==== Sys2Proof/Decode.lean ====
section
/-! DEFINITION. Decoder and encoder. The block fetches no instruction and names no byte (R21, R42): what is decoded
is one 64-bit command word, or the 4-bit code of `phase` (R60, R65). -/

namespace Sys2Proof

/-- What selects an instruction, in the two formats of the opcode table. -/
inductive Encoded where
  /-- Format `CMD`: the value of a host write to slot 12 (R60). -/
  | command (v : Word)
  /-- Format `PHASE`: the code of `phase`, `STATUS[15:12]` (R65). -/
  | phaseCode (c : Code)
deriving DecidableEq, Repr

/-- Why a word stands for no instruction. -/
inductive DecodeError where
  /-- A command word other than 0x1 and 0x2 (R61, R63). -/
  | illegalCommand
  /-- Codes 0 `IDLE`, 12 `DONE`, 13 `FAULT`: phases in which the sequencer has no step (R6, R21). -/
  | phaseWithoutStep
  /-- Codes 14 and 15, never held (R21, R65). -/
  | unusedPhaseCode
deriving DecidableEq, Repr

/-- Field `op`, bits 3:0 of a command word (R60). -/
def opField (v : Word) : Code := v.extractLsb' 0 4

/-- Field `zero`, bits 63:4 of a command word, which must be 0 (R60). -/
def zeroField (v : Word) : BitVec 60 := v.extractLsb' 4 60

/-- The command decoder: legal iff `v[63:4] = 0` and `v[3:0]` is 1 or 2 (R61). -/
def decodeCommand (v : Word) : Except DecodeError Instr :=
  if zeroField v = 0#60 then
    match (opField v).toNat with
    | 1 => .ok .expmod
    | 2 => .ok .rmtest
    | _ => .error .illegalCommand
  else .error .illegalCommand

/-- The micro-step a phase code selects (R65). -/
def decodePhase (c : Code) : Except DecodeError Instr :=
  match c.toNat with
  | 1 => .ok .xStart
  | 2 => .ok .xReda
  | 3 => .ok .xMul
  | 4 => .ok .xRedr
  | 5 => .ok .rmCheck
  | 6 => .ok .rmDecomp
  | 7 => .ok .rmDraw
  | 8 => .ok .rmFirst
  | 9 => .ok .rmSq
  | 10 => .ok .rmSqred
  | 11 => .ok .rmVerdict
  | 14 => .error .unusedPhaseCode
  | 15 => .error .unusedPhaseCode
  | _ => .error .phaseWithoutStep

/-- The decoder, total on every word of either format. -/
def decode : Encoded → Except DecodeError Instr
  | .command v => decodeCommand v
  | .phaseCode c => decodePhase c

/-- The encoder, from the tables of R61 and R65. -/
def encode : Instr → Encoded
  | .expmod => .command 0x0000000000000001#64
  | .rmtest => .command 0x0000000000000002#64
  | .xStart => .phaseCode 0x1#4
  | .xReda => .phaseCode 0x2#4
  | .xMul => .phaseCode 0x3#4
  | .xRedr => .phaseCode 0x4#4
  | .rmCheck => .phaseCode 0x5#4
  | .rmDecomp => .phaseCode 0x6#4
  | .rmDraw => .phaseCode 0x7#4
  | .rmFirst => .phaseCode 0x8#4
  | .rmSq => .phaseCode 0x9#4
  | .rmSqred => .phaseCode 0xA#4
  | .rmVerdict => .phaseCode 0xB#4

/-- Whether the word `encode` gives is a well-formed word of its format. -/
def Encoded.wellFormed : Encoded → Bool
  | .command v => commandWellFormed v
  | .phaseCode c => phaseCodeWellFormed c

/-- A word of the opcode table, by the row's number of bits: 64 for format `CMD`; fewer for format `PHASE`, whose
mask 0xF leaves only the low four bits to read (log entry 12). -/
def tableWord (nbits w : Nat) : Encoded :=
  if nbits < 64 then .phaseCode (BitVec.ofNat 4 w) else .command (BitVec.ofNat 64 w)

/-- The instruction the decoder reads from a word of the opcode table. -/
def decodeTableWord (nbits w : Nat) : Option Instr := (decode (tableWord nbits w)).toOption

end Sys2Proof
end

