-- ==== Sys2Proof/Machine/State.lean ====
section
/-! DEFINITION. The state of MODEXP-RM: nine data registers, six control fields (R10, R33), and the model's own
list of pending events and list of read answers. -/

namespace Sys2Proof.Machine

/-- The values of the control field `phase` (R21). Codes 14 and 15 are never held, so they are left out (R65). -/
inductive Phase where
  | idle | xStart | xReda | xMul | xRedr | rmCheck | rmDecomp | rmDraw | rmFirst | rmSq | rmSqred | rmVerdict
  | done | fault
deriving DecidableEq, Repr

/-- The control field `mode` (R22): which command is, or was last, run. -/
inductive Mode where
  /-- 0: `EXPMOD`. -/
  | exp
  /-- 1: `RMTEST`. -/
  | rm
deriving DecidableEq, Repr

/-- The fault codes of `err` (R24, R140); 5 to 15 are never produced (V5). -/
inductive ErrCode where
  /-- 0: no fault since reset. -/
  | none
  /-- 1: `ERR_N_ZERO` (R142). -/
  | nZero
  /-- 2: `ERR_OVERFLOW` (R143). -/
  | overflow
  /-- 3: `ERR_DOMAIN` (R144). -/
  | domain
  /-- 4: `ERR_CMD` (R145). -/
  | cmd
deriving DecidableEq, Repr

/-- The sixteen register slots of the slot map (R41), in index order. -/
inductive Slot where
  | a | d | n | r | cnt | lastm | s | i | wit | wmin | wmax | status | cmd | reserved13 | reserved14 | reserved15
deriving DecidableEq, Repr

/-- One atomic transition of one agent (R6, R52), as the free schedule offers it. -/
inductive Event where
  /-- The sequencer's turn. -/
  | sequencer
  /-- `HostRead(i)` (R44). -/
  | hostRead (slot : Slot)
  /-- `HostWrite(i, v)` (R45); a write to `wit` carries the witness, a free input (R118). -/
  | hostWrite (slot : Slot) (value : Word)
  /-- An access narrower or wider than 64 bits, misaligned, or naming no slot 0 to 15 (R43). -/
  | hostOffSlot
  /-- Reset is asserted (R170). -/
  | reset
deriving DecidableEq, Repr

/-- What stops the machine with a fault: nothing. The block's own faults are next states in phase `FAULT` (R141),
so this type has no constructor. -/
inductive Fault where
deriving DecidableEq, Repr

/-- Why the model refuses a transition. -/
inductive Refusal where
  /-- Raised by an arm of `exec` whose instruction has no meaning yet (none has this). Safe: nothing runs. -/
  | notModelled (mnemonic : String)
  /-- Raised by a host access that is not one whole 64-bit slot (R43: "a model gives such an access no meaning
  (refusal)"; V12). Safe: the platform refuses it before it reaches the block. -/
  | notWholeSlot
deriving DecidableEq, Repr

/-- The whole state of the block (R10, R21 to R26, R33), and two fields of the model's own. -/
structure State where
  /-- Base, reduced base, working copy of the witness (R11). -/
  A : Word
  /-- Exponent; odd part of `N - 1` (R12). -/
  D : Word
  /-- Modulus; candidate (R13). -/
  N : Word
  /-- Running residue (R14). -/
  R : Word
  /-- Multiplications still to do (R15). -/
  CNT : Word
  /-- The value squared last (R16). -/
  LASTM : Word
  /-- The power of two in `N - 1` (R17). -/
  S : Word
  /-- Squarings done (R18). -/
  I : Word
  /-- The witness as handed over (R19). -/
  WIT : Word
  /-- The sequencer's position (R21). -/
  phase : Phase
  /-- The current or last command (R22). -/
  mode : Mode
  /-- 1 = probably prime (R23). -/
  verdict : Bool
  /-- The fault code (R24). -/
  err : ErrCode
  /-- The phase in which the fault was raised; `IDLE` (code 0) when there is none (R25). -/
  fphase : Phase
  /-- A host write was dropped; sticky (R26). -/
  werr : Bool
  /-- MODEL: the events still to come, first one next; when it is empty the sequencer moves (log entries 1, 2). -/
  pending : List Event
  /-- MODEL: what `HostRead` has returned to the host, newest first; no rule reads it (log entry 4). -/
  replies : List (Slot × Word)
deriving DecidableEq, Repr

/-- The outcome of one transition. -/
abbrev Result := Host.Outcome State Fault Refusal

/-- The state right after reset (R35): every register and control field 0, `phase = IDLE`. -/
def State.reset : State where
  A := 0#64
  D := 0#64
  N := 0#64
  R := 0#64
  CNT := 0#64
  LASTM := 0#64
  S := 0#64
  I := 0#64
  WIT := 0#64
  phase := .idle
  mode := .exp
  verdict := false
  err := .none
  fphase := .idle
  werr := false
  pending := []
  replies := []

end Sys2Proof.Machine
end

