-- ==== Sys2Proof/Machine/Operands.lean ====
section
/-! DEFINITION. The codes and numbers the control fields and slots are seen as, and the register views. -/

namespace Sys2Proof.Machine

/-- The code of a phase (R21, R65). -/
def Phase.code : Phase → Code
  | .idle => 0#4
  | .xStart => 1#4
  | .xReda => 2#4
  | .xMul => 3#4
  | .xRedr => 4#4
  | .rmCheck => 5#4
  | .rmDecomp => 6#4
  | .rmDraw => 7#4
  | .rmFirst => 8#4
  | .rmSq => 9#4
  | .rmSqred => 10#4
  | .rmVerdict => 11#4
  | .done => 12#4
  | .fault => 13#4

/-- The phase a code names; 14 and 15 name none (R21). -/
def Phase.ofCode (c : Code) : Option Phase :=
  match c.toNat with
  | 0 => some .idle
  | 1 => some .xStart
  | 2 => some .xReda
  | 3 => some .xMul
  | 4 => some .xRedr
  | 5 => some .rmCheck
  | 6 => some .rmDecomp
  | 7 => some .rmDraw
  | 8 => some .rmFirst
  | 9 => some .rmSq
  | 10 => some .rmSqred
  | 11 => some .rmVerdict
  | 12 => some .done
  | 13 => some .fault
  | _ => none

/-- `mode` as one bit: 0 `EXP`, 1 `RM` (R22). -/
def Mode.bit : Mode → Bool
  | .exp => false
  | .rm => true

/-- The code of `err` (R140). -/
def ErrCode.code : ErrCode → Code
  | .none => 0#4
  | .nZero => 1#4
  | .overflow => 2#4
  | .domain => 3#4
  | .cmd => 4#4

/-- The index of a slot (R41). -/
def Slot.index : Slot → Nat
  | .a => 0
  | .d => 1
  | .n => 2
  | .r => 3
  | .cnt => 4
  | .lastm => 5
  | .s => 6
  | .i => 7
  | .wit => 8
  | .wmin => 9
  | .wmax => 10
  | .status => 11
  | .cmd => 12
  | .reserved13 => 13
  | .reserved14 => 14
  | .reserved15 => 15

/-- The view `WMIN` (slot 9): always 2 (R20). -/
def wmin : Word := 2#64

/-- The view `WMAX` (slot 10): `(N - 1) mod 2^64` (R20). -/
def State.wmax (s : State) : Word := s.N - 1#64

end Sys2Proof.Machine
end

