-- ==== Sys2Proof/Machine/Flags.lean ====
section
/-! DEFINITION. The status flags, the `STATUS` word and the four level outputs (R27, R30). -/

namespace Sys2Proof.Machine

/-- The phases in which the block takes operands and commands: `IDLE` and `DONE` (R46, R47). -/
def Phase.accepts : Phase → Bool
  | .idle | .done => true
  | .xStart | .xReda | .xMul | .xRedr | .rmCheck | .rmDecomp | .rmDraw | .rmFirst | .rmSq | .rmSqred | .rmVerdict
  | .fault => false

/-- `BUSY`: codes 1 to 11 (R27). -/
def Phase.busy : Phase → Bool
  | .xStart | .xReda | .xMul | .xRedr | .rmCheck | .rmDecomp | .rmDraw | .rmFirst | .rmSq | .rmSqred | .rmVerdict => true
  | .idle | .done | .fault => false

/-- `STATUS[0]` and the level output `busy` (R27, R30). -/
def State.busy (s : State) : Bool := s.phase.busy

/-- `STATUS[1]` and the level output `done`. -/
def State.done (s : State) : Bool := s.phase == .done

/-- `STATUS[2]` and the level output `fault`. -/
def State.fault (s : State) : Bool := s.phase == .fault

/-- `STATUS[3]` and the level output `wreq`: a witness is requested (R116). -/
def State.wreq (s : State) : Bool := s.phase == .rmDraw

/-- The four level outputs (R30). -/
structure Levels where
  busy : Bool
  done : Bool
  fault : Bool
  wreq : Bool
deriving DecidableEq, Repr

/-- The `STATUS` word (R27), its fields from bit 63 down to bit 0. -/
def State.statusWord (s : State) : Word :=
  0#44 ++ s.fphase.code ++ s.phase.code ++ s.err.code ++ 0#1 ++ BitVec.ofBool s.werr ++ BitVec.ofBool s.verdict ++
    BitVec.ofBool s.mode.bit ++ BitVec.ofBool s.wreq ++ BitVec.ofBool s.fault ++ BitVec.ofBool s.done ++
    BitVec.ofBool s.busy

/-- The level outputs: each a copy of one `STATUS` bit at every instant (R30). -/
def State.levels (s : State) : Levels where
  busy := s.statusWord.getLsbD 0
  done := s.statusWord.getLsbD 1
  fault := s.statusWord.getLsbD 2
  wreq := s.statusWord.getLsbD 3

end Sys2Proof.Machine
end

