-- ==== Sys2Proof/Machine/Ops.lean ====
section
/-! DEFINITION. The shared operations: exact arithmetic, raising a fault, leaving the exponentiator, what the host's
accesses and reset do to the state. -/

namespace Sys2Proof.Machine

/-- The exact product of two 64-bit values, or nothing when it is `2^64` or more (R83, R85). -/
def mulExact (x y : Word) : Option Word :=
  if x.toNat * y.toNat < 2 ^ 64 then some (BitVec.ofNat 64 (x.toNat * y.toNat)) else none

/-- One step of a reduction by repeated subtraction: `x - n` when `x ≥ n`, else nothing to do (R82, R84, R122). -/
def subtractOnce (x n : Word) : Option Word :=
  if n ≤ x then some (x - n) else none

/-- TAKING A FAULT, `raise Fault(code)` (R141): save the phase, record the code, enter `FAULT`; nothing else. -/
def State.raiseFault (s : State) (code : ErrCode) : State :=
  { s with fphase := s.phase, err := code, phase := .fault }

/-- THE ONLY RETURN FROM A FAULT, `Reset()` (R152, R170): every register and control field takes its reset value. The
schedule and the host's own record of what it has read are not the block's, and stay (log entry 11). -/
def State.applyReset (s : State) : State :=
  { State.reset with pending := s.pending, replies := s.replies }

/-- `xexit` (R86): `DONE` under `mode = EXP`, `RM_FIRST` under `mode = RM`. -/
def State.xexit (s : State) : State :=
  { s with phase := match s.mode with | .exp => .done | .rm => .rmFirst }

/-- A dropped host write (R49): its only effect is `werr <- 1`. -/
def State.dropWrite (s : State) : State := { s with werr := true }

/-- A legal command word written to `CMD` (R62, R64): accepted in `IDLE` and `DONE`, else dropped. -/
def State.giveCommand (s : State) (m : Mode) (first : Phase) : State :=
  if s.phase.accepts then { s with verdict := false, mode := m, phase := first } else s.dropWrite

/-- An illegal command word written to `CMD` (R63, R64): `ERR_CMD` in `IDLE` and `DONE`, else dropped. -/
def State.giveIllegalCommand (s : State) : State :=
  if s.phase.accepts then s.raiseFault .cmd else s.dropWrite

/-- The witness hand-over (R117). -/
def State.handOver (s : State) (w : Word) : State := { s with WIT := w, A := w, phase := .xStart }

/-- An operand write to `A` (R46, R49). -/
def State.writeA (s : State) (v : Word) : State := if s.phase.accepts then { s with A := v } else s.dropWrite

/-- An operand write to `D` (R46, R49). -/
def State.writeD (s : State) (v : Word) : State := if s.phase.accepts then { s with D := v } else s.dropWrite

/-- An operand write to `N` (R46, R49). -/
def State.writeN (s : State) (v : Word) : State := if s.phase.accepts then { s with N := v } else s.dropWrite

/-- What a host read of a slot returns (R41, R44; `CMD` R28, reserved slots R29). -/
def State.slotValue (s : State) : Slot → Word
  | .a => s.A
  | .d => s.D
  | .n => s.N
  | .r => s.R
  | .cnt => s.CNT
  | .lastm => s.LASTM
  | .s => s.S
  | .i => s.I
  | .wit => s.WIT
  | .wmin => wmin
  | .wmax => s.wmax
  | .status => s.statusWord
  | .cmd => 0#64
  | .reserved13 => 0#64
  | .reserved14 => 0#64
  | .reserved15 => 0#64

/-- `HostRead(i)` (R44): the value goes to the host; the block's state does not change. -/
def State.answerRead (s : State) (slot : Slot) : State := { s with replies := (slot, s.slotValue slot) :: s.replies }

/-- A host write that runs no instruction (R45): an operand write, an illegal command word, or a dropped write. The
legal command words and the witness hand-over are the instructions' own (`EXPMOD`, `RMTEST`, `RM_DRAW`). -/
def State.writeSlot (s : State) (slot : Slot) (v : Word) : State :=
  match slot with
  | .a => s.writeA v
  | .d => s.writeD v
  | .n => s.writeN v
  | .cmd => s.giveIllegalCommand
  | .r | .cnt | .lastm | .s | .i | .wit | .wmin | .wmax | .status | .reserved13 | .reserved14 | .reserved15 => s.dropWrite

/-- The event of this transition: the first pending one, or the sequencer's turn when none is pending (log entry 2). -/
def State.event (s : State) : Event :=
  match s.pending with
  | [] => .sequencer
  | e :: _ => e

/-- Move past the event of this transition. -/
def State.advance (s : State) : State := { s with pending := s.pending.tail }

end Sys2Proof.Machine
end

