-- ==== Sys2Proof/Machine/Commands.lean ====
section
/-! DEFINITION. The two commands: what the write of a legal command word does (R62). -/

namespace Sys2Proof.Machine

/-- `EXPMOD` (R62, R80): `verdict <- 0; mode <- EXP; phase <- X_START`. -/
def execExpmod (s : State) : Result := .next (s.giveCommand .exp .xStart)

/-- `RMTEST` (R62, R110): `verdict <- 0; mode <- RM; phase <- RM_CHECK`. -/
def execRmtest (s : State) : Result := .next (s.giveCommand .rm .rmCheck)

end Sys2Proof.Machine
end

