-- ==== Sys2Proof/Machine/Exponentiator.lean ====
section
/-! DEFINITION. The micro-steps of the Modular Exponentiator (`40_modexp.md` R81 to R84). -/

namespace Sys2Proof.Machine

/-- `X_START` (R81): the modulus-zero and exponent-zero tests, in this order. -/
def execXStart (s : State) : Result :=
  .next
    (if s.N = 0#64 then s.raiseFault .nZero
     else if s.D = 0#64 then State.xexit { s with R := if s.N = 1#64 then 0#64 else 1#64 }
     else { s with phase := .xReda })

/-- `X_REDA` (R82): one subtraction of `N` from the base, or the set-up of the multiply loop. -/
def execXReda (s : State) : Result :=
  .next
    (match subtractOnce s.A s.N with
     | some a => { s with A := a }
     | none => { s with R := s.A, CNT := s.D - 1#64, phase := .xMul })

/-- `X_MUL` (R83): leave when `CNT = 0`, else one exact multiplication or `ERR_OVERFLOW`. -/
def execXMul (s : State) : Result :=
  .next
    (if s.CNT = 0#64 then s.xexit
     else
       match mulExact s.R s.A with
       | none => s.raiseFault .overflow
       | some p => { s with R := p, CNT := s.CNT - 1#64, phase := .xRedr })

/-- `X_REDR` (R84): one subtraction of `N` from the product, or back to the loop head. -/
def execXRedr (s : State) : Result :=
  .next
    (match subtractOnce s.R s.N with
     | some r => { s with R := r }
     | none => { s with phase := .xMul })

end Sys2Proof.Machine
end

