-- ==== Sys2Proof/Machine/RabinMiller.lean ====
section
/-! DEFINITION. The micro-steps of the Rabin-Miller Witness Test (`41_rabin_miller.md` R112 to R123). -/

namespace Sys2Proof.Machine

/-- `RM_CHECK` (R112): 2, then even, then 1, in this order; else the set-up of the decomposition. -/
def execRmCheck (s : State) : Result :=
  .next
    (if s.N = 2#64 then { s with verdict := true, phase := .done }
     else if s.N[0] = false then { s with verdict := false, phase := .done }
     else if s.N = 1#64 then s.raiseFault .domain
     else { s with D := s.N - 1#64, S := 0#64, phase := .rmDecomp })

/-- `RM_DECOMP` (R113): one right shift of an even `D`, or on to the draw. -/
def execRmDecomp (s : State) : Result :=
  .next
    (if s.D[0] = false then { s with D := s.D >>> 1, S := s.S + 1#64 }
     else { s with phase := .rmDraw })

/-- `RM_DRAW` (R116): a hold. Only the host's write of the witness lifts it (R117); any other turn leaves the state as
it is. -/
def execRmDraw (s : State) : Result :=
  .next
    (match s.event with
     | .hostWrite .wit w => s.handOver w
     | _ => s)

/-- `RM_FIRST` (R120): "If m == 1, declare probably-prime and return." -/
def execRmFirst (s : State) : Result :=
  .next
    (if s.R = 1#64 then { s with verdict := true, phase := .done }
     else { s with I := 0#64, phase := .rmSq })

/-- `RM_SQ` (R121): leave when `I = S`, else remember `R` and square it, or `ERR_OVERFLOW`. -/
def execRmSq (s : State) : Result :=
  .next
    (if s.I = s.S then { s with phase := .rmVerdict }
     else
       match mulExact s.R s.R with
       | none => s.raiseFault .overflow
       | some p => { s with LASTM := s.R, R := p, I := s.I + 1#64, phase := .rmSqred })

/-- `RM_SQRED` (R122): one subtraction of `N` from the square, or the early-exit test on the reduced value. -/
def execRmSqred (s : State) : Result :=
  .next
    (match subtractOnce s.R s.N with
     | some r => { s with R := r }
     | none => if s.R = 1#64 then { s with phase := .rmVerdict } else { s with phase := .rmSq })

/-- `RM_VERDICT` (R123): probably prime iff the loop ended with 1 right after `N - 1`. -/
def execRmVerdict (s : State) : Result :=
  .next { s with verdict := decide (s.R = 1#64 ∧ s.LASTM = s.N - 1#64), phase := .done }

end Sys2Proof.Machine
end

