-- ==== Sys2Proof/Machine/Dispatch.lean ====
section
/-! DEFINITION. exec: one arm per constructor of Instr. -/

namespace Sys2Proof.Machine

def exec (i : Instr) (s : State) : Host.Outcome State Fault Refusal :=
  match i with
  | .expmod => Sys2Proof.Machine.execExpmod s
  | .rmtest => Sys2Proof.Machine.execRmtest s
  | .xStart => Sys2Proof.Machine.execXStart s
  | .xReda => Sys2Proof.Machine.execXReda s
  | .xMul => Sys2Proof.Machine.execXMul s
  | .xRedr => Sys2Proof.Machine.execXRedr s
  | .rmCheck => Sys2Proof.Machine.execRmCheck s
  | .rmDecomp => Sys2Proof.Machine.execRmDecomp s
  | .rmDraw => Sys2Proof.Machine.execRmDraw s
  | .rmFirst => Sys2Proof.Machine.execRmFirst s
  | .rmSq => Sys2Proof.Machine.execRmSq s
  | .rmSqred => Sys2Proof.Machine.execRmSqred s
  | .rmVerdict => Sys2Proof.Machine.execRmVerdict s

end Sys2Proof.Machine
end

