-- ==== Sys2Proof/Machine/Fetch.lean ====
section
/-! DEFINITION. Which instruction a transition runs, what a transition that runs none does, and where a word of the
opcode table is placed to be run next. -/

namespace Sys2Proof.Machine

/-- The instruction of this transition. On the sequencer's turn the code of `phase` selects it (R65); a write to `CMD`
gives the word to decode (R61); a write to `WIT` while the block holds lifts the hold of `RM_DRAW` (R117). Every other
transition runs none. -/
def State.fetch (s : State) : Option Instr :=
  match s.event with
  | .sequencer => (decode (.phaseCode s.phase.code)).toOption
  | .hostWrite .cmd v => (decode (.command v)).toOption
  | .hostWrite .wit _ => if s.phase = .rmDraw then (decode (.phaseCode s.phase.code)).toOption else none
  | .hostWrite _ _ => none
  | .hostRead _ => none
  | .hostOffSlot => none
  | .reset => none

/-- A transition that runs no instruction. The sequencer has no step in `IDLE`, `DONE` and `FAULT` (R6), so its turn
there changes nothing (log entry 6). -/
def State.uninstructed (s : State) : Result :=
  match s.event with
  | .sequencer => .next s
  | .hostRead slot => .next (s.answerRead slot)
  | .hostWrite slot v => .next (s.writeSlot slot v)
  | .hostOffSlot => .refused .notWholeSlot
  | .reset => .next s.applyReset

/-- Move past the event, after a transition that has a next state. -/
def moveOn : Result → Result
  | .next t => .next t.advance
  | .fault f => .fault f
  | .refused r => .refused r

/-- Place a word of the opcode table where the next transition reads it: a command word in a pending write to `CMD`;
a phase code in `phase`, with the sequencer's turn next (log entry 3). -/
def State.placeTableWord (s : State) (nbits w : Nat) : State :=
  match tableWord nbits w with
  | .command v => { s with pending := .hostWrite .cmd v :: s.pending }
  | .phaseCode c =>
    match Phase.ofCode c with
    | some p => { s with phase := p, pending := .sequencer :: s.pending }
    | none => { s with pending := .sequencer :: s.pending }

end Sys2Proof.Machine
end

