-- ==== Sys2Proof/Machine/Step.lean ====
section
/-! DEFINITION. One step: one atomic transition of one agent (R52). -/

namespace Sys2Proof.Machine

/-- One transition: run the instruction it selects, or what a transition without one does, and move past its event. -/
def step (s : State) : Host.Outcome State Fault Refusal :=
  match s.fetch with
  | some i => moveOn (exec i s)
  | none => moveOn s.uninstructed

/-- `s` with a word of the opcode table placed so that the next step runs it. -/
def State.withFetchWord (s : State) (nbits w : Nat) : State := s.placeTableWord nbits w

end Sys2Proof.Machine
end

