-- ==== Sys2Proof/Machine/Script.lean ====
section
/-! DEFINITION. Host-script notation: the statements and pseudo-statements host programs are written in (R66, R67). -/

namespace Sys2Proof.Machine

/-- A statement (R66); its encoding is one access, the triple (kind, slot, value). -/
inductive Statement where
  | wr (reg : Slot) (value : Word)
  | rd (reg : Slot)
  | cmdExpmod
  | cmdRmtest
  | reset
deriving DecidableEq, Repr

/-- The access a statement stands for (R66). -/
def Statement.event : Statement → Event
  | .wr reg v => .hostWrite reg v
  | .rd reg => .hostRead reg
  | .cmdExpmod => .hostWrite .cmd 0x0000000000000001#64
  | .cmdRmtest => .hostWrite .cmd 0x0000000000000002#64
  | .reset => .reset

/-- A line of a host script (R66, R67). -/
inductive ScriptLine where
  | stmt (x : Statement)
  | wait
  | witness (value : Word)
  | modexp (a d n : Word)
  | rabin (n w : Word)
deriving DecidableEq, Repr

/-- `WAIT` ends on a `STATUS` with `BUSY = 0` or `WREQ = 1` (R67). -/
def waitOver (status : Word) : Bool := !status.getLsbD 0 || status.getLsbD 3

/-- Let one event happen now. -/
def State.happen (s : State) (e : Event) : Option State :=
  match step { s with pending := e :: s.pending } with
  | .next t => some t
  | .fault _ => none
  | .refused _ => none

/-- The host's last read was of `STATUS`, and what it returned. -/
def State.lastStatus (s : State) : Option Word :=
  match s.replies with
  | (.status, v) :: _ => some v
  | _ => none

/-- `WAIT` (R67): read `STATUS` until it says so, the sequencer moving once between two reads (one schedule of those
R52 allows, log entry 17); nothing when that takes more than the given number of reads. -/
def runWait : Nat → State → Option State
  | 0, _ => none
  | fuel + 1, s =>
    match s.happen (.hostRead .status) with
    | none => none
    | some t =>
      if (t.lastStatus.map waitOver) = some true then some t
      else
        match t.happen .sequencer with
        | none => none
        | some u => runWait fuel u

/-- A script in progress: the block, and the `STATUS` value on which the script's latest `WAIT` ended, if there was one.
The second is the script's own record: no rule of the block reads it. -/
structure ScriptRun where
  block : State
  waitEnd : Option Word
deriving DecidableEq, Repr

/-- A script about to begin. -/
def State.beginScript (s : State) : ScriptRun where
  block := s
  waitEnd := none

/-- One access. The sequencer takes no turn before or after it: R52 lets any number fall there, and none is the model's
choice (DESIGN CHOICE, log entry 23). -/
def ScriptRun.access (x : ScriptRun) (e : Event) : Option ScriptRun :=
  (x.block.happen e).map fun t => { x with block := t }

/-- Several accesses in turn, with no micro-step between two of them (log entry 23). -/
def ScriptRun.accessAll (x : ScriptRun) : List Event → Option ScriptRun
  | [] => some x
  | e :: rest => (x.access e).bind fun y => y.accessAll rest

/-- `WAIT` in a script: the value its last read returned is kept. -/
def ScriptRun.wait (fuel : Nat) (x : ScriptRun) : Option ScriptRun :=
  (runWait fuel x.block).map fun t => { block := t, waitEnd := t.lastStatus }

/-- The latest `WAIT` ended with `WREQ = 1` (R67). -/
def ScriptRun.witnessAsked (x : ScriptRun) : Bool :=
  match x.waitEnd with
  | some status => status.getLsbD 3
  | none => false

/-- `WITNESS` (R67): legal only after a `WAIT` that ended with `WREQ = 1`, whatever statements stand between the two
(log entry 22); nothing otherwise. -/
def runWitness (w : Word) (x : ScriptRun) : Option ScriptRun :=
  if x.witnessAsked then x.access (.hostWrite .wit w) else none

/-- One script line, by the expansions of R67. -/
def runLine (fuel : Nat) (x : ScriptRun) : ScriptLine → Option ScriptRun
  | .stmt st => x.access st.event
  | .wait => x.wait fuel
  | .witness w => runWitness w x
  | .modexp a d n =>
    (x.accessAll [.hostWrite .a a, .hostWrite .d d, .hostWrite .n n, Statement.cmdExpmod.event]).bind fun y =>
      (y.wait fuel).bind fun z => z.accessAll [.hostRead .status, .hostRead .r]
  | .rabin n w =>
    (x.accessAll [.hostWrite .n n, Statement.cmdRmtest.event]).bind fun y =>
      (y.wait fuel).bind fun z =>
        (if z.witnessAsked then (runWitness w z).bind fun u => u.wait fuel else some z).bind fun u =>
          u.access (.hostRead .status)

/-- A script, line by line (R66, R67); the number bounds the reads of each `WAIT`. Outside `WAIT` the sequencer takes no
turn between two statements: one schedule of those R52 allows (DESIGN CHOICE, log entry 23), so that a read right after a
command sees the state in which the command was accepted. -/
def runScript (fuel : Nat) (x : ScriptRun) : List ScriptLine → Option ScriptRun
  | [] => some x
  | line :: rest => (runLine fuel x line).bind fun y => runScript fuel y rest

end Sys2Proof.Machine
end

