-- ==== Sys2Proof/Machine/Views.lean ====
section
/-! DEFINITION. The function views of the two commands, and the micro-step counts. The micro-steps define the machine;
these are derived from them (R92, R124, R185; `00_scope.md` section 8), on natural numbers. -/

namespace Sys2Proof.Machine

/-- The loop of `ModExp` (R92): `k` multiplications by `b` still to do, `r` the residue so far. -/
def modExpFrom (b n : Nat) : Nat → Nat → Except ErrCode Nat
  | 0, r => .ok r
  | k + 1, r => if 2 ^ 64 ≤ r * b then .error .overflow else modExpFrom b n k (r * b % n)

/-- `ModExp(a, d, n)` (R92). -/
def modExp (a d n : Nat) : Except ErrCode Nat :=
  if n = 0 then .error .nZero
  else if d = 0 then .ok (if n = 1 then 0 else 1)
  else modExpFrom (a % n) n (d - 1) (a % n)

/-- Halve `d` while it is even, counting in `s` (R124); the first argument bounds the number of halvings. -/
def splitEven : Nat → Nat → Nat → Nat × Nat
  | 0, d, s => (d, s)
  | fuel + 1, d, s => if d % 2 = 0 then splitEven fuel (d / 2) (s + 1) else (d, s)

/-- The squaring loop of `RMTest` (R124): `k` squarings still allowed, `m` the value so far. -/
def squareFrom (n : Nat) : Nat → Nat → Except ErrCode Bool
  | 0, _ => .ok false
  | k + 1, m =>
    if 2 ^ 64 ≤ m * m then .error .overflow
    else if m * m % n = 1 then .ok (decide (m = n - 1))
    else squareFrom n k (m * m % n)

/-- `RMTest(n, w)` for a 64-bit candidate `n` (R124): 63 halvings are always enough (R113). -/
def rmTest (n w : Nat) : Except ErrCode Bool :=
  if n = 2 then .ok true
  else if n % 2 = 0 then .ok false
  else if n = 1 then .error .domain
  else
    match modExp w (splitEven 63 (n - 1) 0).1 n with
    | .error c => .error c
    | .ok m => if m = 1 then .ok true else squareFrom n (splitEven 63 (n - 1) 0).2 m

/-- Micro-steps of `k` multiplications by `b`, each with its reduction (R185). -/
def multiplySteps (b n : Nat) : Nat → Nat → Nat
  | 0, _ => 0
  | k + 1, r => 2 + r * b / n + multiplySteps b n k (r * b % n)

/-- Micro-steps of an `EXPMOD` that does not overflow (R185). -/
def expmodSteps (a d n : Nat) : Nat :=
  if n = 0 ∨ d = 0 then 1 else 3 + a / n + multiplySteps (a % n) n (d - 1) (a % n)

/-- Micro-steps of an `EXPMOD` whose `k`-th multiplication overflows (R185). -/
def expmodOverflowSteps (a k n : Nat) : Nat := 2 + a / n + multiplySteps (a % n) n (k - 1) (a % n) + 1

end Sys2Proof.Machine
end

