-- ==== Sys2Proof/Safety.lean ====
section
/-! DEFINITION. What holds of a block that has run from reset: the invariants of R34, in the terms statements use. -/

namespace Sys2Proof.Machine

/-- The machine goes from `s` to `t` in exactly `k` transitions. -/
def Runs : Nat → State → State → Prop
  | 0, s, t => t = s
  | k + 1, s, t => ∃ u, step s = .next u ∧ Runs k u t

/-- `N` is an odd candidate of at least 3. -/
def State.OddCandidate (s : State) : Prop := s.N.toNat % 2 = 1 ∧ 3 ≤ s.N.toNat

/-- `(D, S)` is the Witness Decomposition of `N` (R114). -/
def State.Decomposed (s : State) : Prop :=
  s.D.toNat % 2 = 1 ∧ s.D.toNat * 2 ^ s.S.toNat = s.N.toNat - 1 ∧ 1 ≤ s.S.toNat ∧ s.S.toNat ≤ 63

/-- The invariants of R34 (items 1 to 7; item 3 without its clause on the residue, which is `ResidueInv`; item 8 is
`Phase.code`'s range), with what their preservation needs besides: the last four fields. -/
structure State.Inv (s : State) : Prop where
  /-- R34 item 1. -/
  reduction : s.phase ∈ [.xReda, .xMul, .xRedr] → 0 < s.N.toNat ∧ 1 ≤ s.D.toNat
  /-- R34 item 2. -/
  multiply : s.phase = .xMul → s.A.toNat < s.N.toNat ∧ s.R.toNat < s.N.toNat
  /-- R34 item 3, first clause. -/
  reducedBase : s.phase = .xRedr → s.A.toNat < s.N.toNat
  /-- R34 item 4. -/
  decomposing : s.mode = .rm → s.phase ∈ [.rmDecomp, .rmDraw] →
    s.OddCandidate ∧ s.D.toNat * 2 ^ s.S.toNat = s.N.toNat - 1
  /-- R34 item 5. -/
  testing : s.mode = .rm →
    s.phase ∈ [.xStart, .xReda, .xMul, .xRedr, .rmFirst, .rmSq, .rmSqred, .rmVerdict] →
    s.OddCandidate ∧ s.Decomposed
  /-- R34 item 6, first clause. -/
  squarings : s.phase ∈ [.rmSq, .rmSqred, .rmVerdict] → s.I.toNat ≤ s.S.toNat
  /-- R34 item 6, second clause. -/
  square : s.phase = .rmSq → s.R.toNat < s.N.toNat
  /-- R34 item 6, third clause. -/
  squared : s.phase ∈ [.rmSqred, .rmVerdict] → 1 ≤ s.I.toNat
  /-- R34 item 7, first clause. -/
  faulted : s.phase = .fault ↔ s.err ≠ .none
  /-- R34 item 7, second clause. -/
  unfaulted : s.err = .none → s.fphase = .idle
  /-- R34 item 7, third clause. -/
  faultPhase : s.fphase ∈ [.idle, .xStart, .xMul, .rmCheck, .rmSq, .done]
  /-- The Rabin-Miller phases are reached under `mode = RM` only. -/
  rmMode : s.phase ∈ [.rmCheck, .rmDecomp, .rmDraw, .rmFirst, .rmSq, .rmSqred, .rmVerdict] → s.mode = .rm
  /-- The decomposition starts from an even `D`, so it counts at least one halving. -/
  decompStart : s.phase = .rmDecomp → s.S.toNat = 0 → s.D.toNat % 2 = 0
  /-- The witness is drawn after the decomposition is complete (R114, R118). -/
  drawn : s.phase = .rmDraw → s.Decomposed
  /-- The exponentiator hands back a residue. -/
  firstResidue : s.phase ∈ [.rmFirst, .rmVerdict] → s.R.toNat < s.N.toNat

/-- What the residue is, at every phase that holds one (R34 item 3, R87, R93, R119, R126): `R` is, modulo `N`, the power
of the reduced base the loops have reached, and in an `RMTEST` the base is the witness. -/
structure State.ResidueInv (s : State) : Prop where
  /-- At the loop head `R = A^(D - CNT) mod N`. -/
  multiply : s.phase = .xMul →
    s.CNT.toNat < s.D.toNat ∧ s.R.toNat = s.A.toNat ^ (s.D.toNat - s.CNT.toNat) % s.N.toNat
  /-- In the reduction of a product `R mod N` is the residue the loop is about to hold (R34 item 3). -/
  reduce : s.phase = .xRedr →
    s.CNT.toNat < s.D.toNat ∧ s.R.toNat % s.N.toNat = s.A.toNat ^ (s.D.toNat - s.CNT.toNat) % s.N.toNat
  /-- After the exponentiation `R = A^D mod N`. -/
  first : s.phase = .rmFirst → s.R.toNat = s.A.toNat ^ s.D.toNat % s.N.toNat
  /-- After `I` squarings `R = A^(D * 2^I) mod N`, not 1; after at least one, `LASTM` is the `m` before it, not 1. -/
  square : s.phase = .rmSq →
    s.R.toNat ≠ 1 ∧ s.R.toNat = s.A.toNat ^ (s.D.toNat * 2 ^ s.I.toNat) % s.N.toNat ∧
      (1 ≤ s.I.toNat → s.LASTM.toNat ≠ 1 ∧
        s.LASTM.toNat = s.A.toNat ^ (s.D.toNat * 2 ^ (s.I.toNat - 1)) % s.N.toNat)
  /-- In the reduction of a square `R mod N` is the new `m`, and `LASTM` the `m` before it, not 1. -/
  squareReduce : s.phase = .rmSqred →
    s.R.toNat % s.N.toNat = s.A.toNat ^ (s.D.toNat * 2 ^ s.I.toNat) % s.N.toNat ∧ s.LASTM.toNat ≠ 1 ∧
      s.LASTM.toNat = s.A.toNat ^ (s.D.toNat * 2 ^ (s.I.toNat - 1)) % s.N.toNat
  /-- At the verdict the same, with `R` reduced; without an early exit all `S` squarings are done. -/
  verdict : s.phase = .rmVerdict →
    s.R.toNat = s.A.toNat ^ (s.D.toNat * 2 ^ s.I.toNat) % s.N.toNat ∧ s.LASTM.toNat ≠ 1 ∧
      s.LASTM.toNat = s.A.toNat ^ (s.D.toNat * 2 ^ (s.I.toNat - 1)) % s.N.toNat ∧
      (s.R.toNat ≠ 1 → s.I = s.S)
  /-- Before the base is reduced it is congruent to the witness (R117, R119). -/
  witnessBase : s.mode = .rm → s.phase ∈ [.xStart, .xReda] → s.A.toNat % s.N.toNat = s.WIT.toNat % s.N.toNat
  /-- From then on it is the reduced witness (R127). -/
  witness : s.mode = .rm → s.phase ∈ [.xMul, .xRedr, .rmFirst, .rmSq, .rmSqred, .rmVerdict] →
    s.A.toNat = s.WIT.toNat % s.N.toNat

end Sys2Proof.Machine
end

