-- ==== Sys2Proof/Certificates/Slice0/Obligations.lean ====
section
/-! DEFINITION. The statements for the provers. Each docstring names the rule of spec/ it formalises. The fields
`pending` (the schedule) and `replies` (the host's record of what it read) are the model's own, log entries 1 and 4;
that the sequencer moves when nothing is pending is the model's schedule, log entry 2. -/

open Sys2Proof Sys2Proof.Machine

/-! ### Encoding -/

/-- R61: a command word is legal iff `v[63:4] = 0` and `v[3:0]` is 1 or 2; 1 is `EXPMOD`, 2 is `RMTEST`. -/
def Obligations.CommandWordLegality : Prop :=
  ∀ v : Word,
    ((∃ i, decode (.command v) = .ok i) ↔
      v.extractLsb' 4 60 = 0#60 ∧ (v.extractLsb' 0 4 = 1#4 ∨ v.extractLsb' 0 4 = 2#4)) ∧
    (decode (.command v) = .ok .expmod ↔ v = 0x0000000000000001#64) ∧
    (decode (.command v) = .ok .rmtest ↔ v = 0x0000000000000002#64)

/-- R60, R61, R65: whatever word of either format decodes to an instruction is that instruction's encoding, and a
well-formed word: no two words stand for one instruction. -/
def Obligations.DecodedWordIsTheEncoding : Prop :=
  ∀ (e : Encoded) (i : Instr), decode e = .ok i → encode i = e ∧ e.wellFormed = true ∧ i.wellFormed = true

/-- R61, R65, as words: some of the words the spec writes out, one of each family, and some it says stand for none. -/
def Obligations.SpecWordsDecode : Prop :=
  decode (.command 0b0000000000000000000000000000000000000000000000000000000000000001#64) = .ok .expmod ∧
  decode (.command 0b0000000000000000000000000000000000000000000000000000000000000010#64) = .ok .rmtest ∧
  decode (.phaseCode 0b0011#4) = .ok .xMul ∧
  decode (.phaseCode 0b1010#4) = .ok .rmSqred ∧
  decode (.command 0x8000000000000001#64) = .error .illegalCommand ∧
  decode (.phaseCode 0b1100#4) = .error .phaseWithoutStep ∧
  decode (.phaseCode 0b1110#4) = .error .unusedPhaseCode

/-- R65, R52: a step runs the instruction the transition selects, and moves past the transition's event. On the
sequencer's turn the code of `phase` selects it; a legal word written to `CMD` is the command; a write to `WIT` in
`RM_DRAW` is that phase's. No instruction touches the schedule. The model's grouping, not the spec's words: that a legal
command word runs its command's meaning in every phase, also where it is dropped (log entry 16), and that the witness
write runs the instruction `RM_DRAW` (log entry 7). -/
def Obligations.StepRunsTheSelectedInstruction : Prop :=
  ∀ (s : State) (i : Instr),
    (((s.pending = [] ∨ ∃ rest, s.pending = .sequencer :: rest) ∧ decode (.phaseCode s.phase.code) = .ok i) ∨
      (∃ v rest, s.pending = .hostWrite .cmd v :: rest ∧ decode (.command v) = .ok i) ∨
      (∃ w rest, s.pending = .hostWrite .wit w :: rest ∧ s.phase = .rmDraw ∧ i = .rmDraw)) →
    (∀ t, exec i s = .next t → step s = .next { t with pending := s.pending.tail }) ∧
    (∀ f, exec i s = .fault f → step s = .fault f) ∧
    (∀ r, exec i s = .refused r → step s = .refused r)

/-! ### The host's view: STATUS, the views, reads and writes -/

/-- R27: the fields of `STATUS`; exactly one of `BUSY`, `DONE`, `FAULT` is 1, or none (in `IDLE`); `FAULT = 1` iff
`ERR ≠ 0` in every state the invariants allow; a write to `STATUS` is dropped, and reading it has no side effect. -/
def Obligations.StatusWordFields : Prop :=
  ∀ s : State,
    (s.statusWord[0] = true ↔
      s.phase ∈ [.xStart, .xReda, .xMul, .xRedr, .rmCheck, .rmDecomp, .rmDraw, .rmFirst, .rmSq, .rmSqred, .rmVerdict]) ∧
    (s.statusWord[1] = true ↔ s.phase = .done) ∧
    (s.statusWord[2] = true ↔ s.phase = .fault) ∧
    (s.statusWord[3] = true ↔ s.phase = .rmDraw) ∧
    (s.statusWord[4] = true ↔ s.mode = .rm) ∧
    s.statusWord[5] = s.verdict ∧
    s.statusWord[6] = s.werr ∧
    s.statusWord[7] = false ∧
    s.statusWord.extractLsb' 8 4 = s.err.code ∧
    s.statusWord.extractLsb' 12 4 = s.phase.code ∧
    s.statusWord.extractLsb' 16 4 = s.fphase.code ∧
    s.statusWord.extractLsb' 20 44 = 0#44 ∧
    ((s.statusWord[0].toNat + s.statusWord[1].toNat + s.statusWord[2].toNat = 1 ∧ s.phase ≠ .idle) ∨
      (s.statusWord[0].toNat + s.statusWord[1].toNat + s.statusWord[2].toNat = 0 ∧ s.phase = .idle)) ∧
    (s.Inv → (s.statusWord[2] = true ↔ s.statusWord.extractLsb' 8 4 ≠ 0#4)) ∧
    (∀ v rest, s.pending = .hostWrite .status v :: rest → step s = .next { s with werr := true, pending := rest }) ∧
    (∀ rest, s.pending = .hostRead .status :: rest →
      step s = .next { s with pending := rest, replies := (.status, s.statusWord) :: s.replies })

/-- R21, R65: the codes of the fourteen phases, and the micro-step each busy phase selects. -/
def Obligations.PhaseCodes : Prop :=
  Phase.idle.code = 0#4 ∧ Phase.xStart.code = 1#4 ∧ Phase.xReda.code = 2#4 ∧ Phase.xMul.code = 3#4 ∧
  Phase.xRedr.code = 4#4 ∧ Phase.rmCheck.code = 5#4 ∧ Phase.rmDecomp.code = 6#4 ∧ Phase.rmDraw.code = 7#4 ∧
  Phase.rmFirst.code = 8#4 ∧ Phase.rmSq.code = 9#4 ∧ Phase.rmSqred.code = 10#4 ∧ Phase.rmVerdict.code = 11#4 ∧
  Phase.done.code = 12#4 ∧ Phase.fault.code = 13#4 ∧
  (∀ p : Phase, (∃ i, decode (.phaseCode p.code) = .ok i) ↔ p ∉ [Phase.idle, .done, .fault])

/-- R30, R148: each level output is a copy of its `STATUS` bit, on in exactly the phases R27 names, and a step changes the outputs only
if it changes `phase`. -/
def Obligations.LevelOutputsFollowPhase : Prop :=
  ∀ s t : State,
    (s.levels.busy = true ↔ s.phase ∉ [.idle, .done, .fault]) ∧
    (s.levels.done = true ↔ s.phase = .done) ∧
    (s.levels.fault = true ↔ s.phase = .fault) ∧
    (s.levels.wreq = true ↔ s.phase = .rmDraw) ∧
    s.levels.busy = s.statusWord[0] ∧ s.levels.done = s.statusWord[1] ∧ s.levels.fault = s.statusWord[2] ∧
    s.levels.wreq = s.statusWord[3] ∧
    (step s = .next t → s.levels ≠ t.levels → s.phase ≠ t.phase)

/-- R44 with the read column of R41: a host read in any phase returns the slot's value and changes nothing of the block. -/
def Obligations.HostReadReturnsTheSlot : Prop :=
  ∀ (s : State) (slot : Slot) (rest : List Event), s.pending = .hostRead slot :: rest →
    ∃ v : Word, step s = .next { s with pending := rest, replies := (slot, v) :: s.replies } ∧
      (slot = .a → v = s.A) ∧ (slot = .d → v = s.D) ∧ (slot = .n → v = s.N) ∧ (slot = .r → v = s.R) ∧
      (slot = .cnt → v = s.CNT) ∧ (slot = .lastm → v = s.LASTM) ∧ (slot = .s → v = s.S) ∧ (slot = .i → v = s.I) ∧
      (slot = .wit → v = s.WIT) ∧ (slot = .wmin → v = 2#64) ∧
      (slot = .wmax → v.toNat = if s.N = 0#64 then 2 ^ 64 - 1 else s.N.toNat - 1) ∧
      (slot = .status → v = s.statusWord) ∧
      (slot ∈ [.cmd, .reserved13, .reserved14, .reserved15] → v = 0#64)

/-- R46: an operand write in `IDLE` or `DONE` sets the named register; nothing else of the block changes. -/
def Obligations.OperandWriteStores : Prop :=
  ∀ (s : State) (v : Word) (rest : List Event), s.phase = .idle ∨ s.phase = .done →
    (s.pending = .hostWrite .a v :: rest → step s = .next { s with A := v, pending := rest }) ∧
    (s.pending = .hostWrite .d v :: rest → step s = .next { s with D := v, pending := rest }) ∧
    (s.pending = .hostWrite .n v :: rest → step s = .next { s with N := v, pending := rest })

/-- R49: in every other case a host write has no effect but `werr <- 1`. -/
def Obligations.OtherHostWritesAreDropped : Prop :=
  ∀ (s : State) (slot : Slot) (v : Word) (rest : List Event), s.pending = .hostWrite slot v :: rest →
    ((slot ∈ [.a, .d, .n, .cmd] ∧ s.phase ≠ .idle ∧ s.phase ≠ .done) ∨
      (slot = .wit ∧ s.phase ≠ .rmDraw) ∨
      slot ∈ [.r, .cnt, .lastm, .s, .i, .wmin, .wmax, .status, .reserved13, .reserved14, .reserved15]) →
    step s = .next { s with werr := true, pending := rest }

/-- R43, V12: an access that is not one whole slot is refused, and it is the only transition that has no next state.
The second clause is the model's: the rules give each other access and each micro-step an effect, and a turn in a phase
without a step is a next state by the model's choice (log entries 6 and 7). -/
def Obligations.OnlyOffSlotAccessesAreRefused : Prop :=
  ∀ s : State,
    ((∃ rest, s.pending = .hostOffSlot :: rest) → step s = .refused .notWholeSlot) ∧
    ((¬ ∃ rest, s.pending = .hostOffSlot :: rest) → ∃ t, step s = .next t)

/-! ### The two commands -/

/-- R62: a legal command in `IDLE` or `DONE` is accepted; the data registers, `err`, `fphase` and `werr` keep their
values, and `err` and `fphase` are 0 already in every state the invariants allow. -/
def Obligations.CommandAcceptance : Prop :=
  ∀ s : State, s.phase = .idle ∨ s.phase = .done →
    exec .expmod s = .next { s with verdict := false, mode := .exp, phase := .xStart } ∧
    exec .rmtest s = .next { s with verdict := false, mode := .rm, phase := .rmCheck } ∧
    (∀ rest, s.pending = .hostWrite .cmd 0x1#64 :: rest →
      step s = .next { s with verdict := false, mode := .exp, phase := .xStart, pending := rest }) ∧
    (∀ rest, s.pending = .hostWrite .cmd 0x2#64 :: rest →
      step s = .next { s with verdict := false, mode := .rm, phase := .rmCheck, pending := rest }) ∧
    (s.Inv → s.err = .none ∧ s.fphase = .idle)

/-- R63: any other word written to `CMD` in `IDLE` or `DONE` raises `ERR_CMD` and changes nothing else. -/
def Obligations.IllegalCommandFaults : Prop :=
  ∀ (s : State) (v : Word) (rest : List Event), s.phase = .idle ∨ s.phase = .done →
    v ≠ 0x1#64 → v ≠ 0x2#64 → s.pending = .hostWrite .cmd v :: rest →
    step s = .next { s with fphase := s.phase, err := .cmd, phase := .fault, pending := rest }

/-- R64: while the block does not accept commands no word written to `CMD` does anything but set `werr`. That the two
commands' meanings themselves drop the word there, where R64 says it is not decoded, is the model's (log entry 16). -/
def Obligations.CommandWhileBusyOrFaultedIsDropped : Prop :=
  ∀ s : State, s.phase ≠ .idle → s.phase ≠ .done →
    exec .expmod s = .next { s with werr := true } ∧
    exec .rmtest s = .next { s with werr := true } ∧
    (∀ v rest, s.pending = .hostWrite .cmd v :: rest → step s = .next { s with werr := true, pending := rest })

/-! ### The exponentiator's micro-steps -/

/-- R81, R86: `X_START`; in an `RMTEST` only its last branch can be taken. -/
def Obligations.XStartStep : Prop :=
  ∀ s : State, s.phase = .xStart →
    (s.N = 0#64 → exec .xStart s = .next { s with fphase := .xStart, err := .nZero, phase := .fault }) ∧
    (s.N ≠ 0#64 → s.D = 0#64 → s.mode = .exp →
      exec .xStart s = .next { s with R := if s.N = 1#64 then 0#64 else 1#64, phase := .done }) ∧
    (s.N ≠ 0#64 → s.D = 0#64 → s.mode = .rm →
      exec .xStart s = .next { s with R := if s.N = 1#64 then 0#64 else 1#64, phase := .rmFirst }) ∧
    (s.N ≠ 0#64 → s.D ≠ 0#64 → exec .xStart s = .next { s with phase := .xReda }) ∧
    (s.Inv → s.mode = .rm → s.N ≠ 0#64 ∧ s.D ≠ 0#64)

/-- R82: `X_REDA`, one step and the whole loop: after `floor(A / N)` subtractions `A` holds `A mod N`. The premise
`D ≥ 1` of the leaving step is R34 item 1. -/
def Obligations.XRedaStepAndLoop : Prop :=
  ∀ s : State, s.phase = .xReda →
    (s.N.toNat ≤ s.A.toNat → exec .xReda s = .next { s with A := BitVec.ofNat 64 (s.A.toNat - s.N.toNat) }) ∧
    (s.A.toNat < s.N.toNat → 1 ≤ s.D.toNat →
      exec .xReda s = .next { s with R := s.A, CNT := BitVec.ofNat 64 (s.D.toNat - 1), phase := .xMul }) ∧
    (0 < s.N.toNat → s.pending = [] →
      Runs (s.A.toNat / s.N.toNat) s { s with A := BitVec.ofNat 64 (s.A.toNat % s.N.toNat) })

/-- R83, R86: `X_MUL`. The product written is exact; a product of `2^64` or more faults and changes no register. -/
def Obligations.XMulStep : Prop :=
  ∀ s : State, s.phase = .xMul →
    (s.CNT = 0#64 → s.mode = .exp → exec .xMul s = .next { s with phase := .done }) ∧
    (s.CNT = 0#64 → s.mode = .rm → exec .xMul s = .next { s with phase := .rmFirst }) ∧
    (s.CNT ≠ 0#64 → 2 ^ 64 ≤ s.R.toNat * s.A.toNat →
      exec .xMul s = .next { s with fphase := .xMul, err := .overflow, phase := .fault }) ∧
    (s.CNT ≠ 0#64 → s.R.toNat * s.A.toNat < 2 ^ 64 →
      ∃ p c : Word, p.toNat = s.R.toNat * s.A.toNat ∧ c.toNat = s.CNT.toNat - 1 ∧
        exec .xMul s = .next { s with R := p, CNT := c, phase := .xRedr })

/-- R85: the overflow test is on the exact product: it fails iff the product is `2^64` or more, iff bits 127:64 of the
128-bit product are not all zero, iff (for `A ≠ 0`) `R > floor((2^64 - 1) / A)`; otherwise the value kept is the exact
product, and the low 64 bits of any multiplier's output. -/
def Obligations.OverflowTestIsExact : Prop :=
  ∀ r a : Word,
    (mulExact r a = none ↔ 2 ^ 64 ≤ r.toNat * a.toNat) ∧
    (mulExact r a = none ↔ (r.setWidth 128 * a.setWidth 128).extractLsb' 64 64 ≠ 0#64) ∧
    (a ≠ 0#64 → (mulExact r a = none ↔ (2 ^ 64 - 1) / a.toNat < r.toNat)) ∧
    (∀ p, mulExact r a = some p → p.toNat = r.toNat * a.toNat ∧ p = r * a)

/-- R84: `X_REDR`, one step and the whole loop: after `floor(R / N)` subtractions `R` holds `R mod N`. -/
def Obligations.XRedrStepAndLoop : Prop :=
  ∀ s : State, s.phase = .xRedr →
    (s.N.toNat ≤ s.R.toNat → exec .xRedr s = .next { s with R := BitVec.ofNat 64 (s.R.toNat - s.N.toNat) }) ∧
    (s.R.toNat < s.N.toNat → exec .xRedr s = .next { s with phase := .xMul }) ∧
    (0 < s.N.toNat → s.pending = [] →
      Runs (s.R.toNat / s.N.toNat) s { s with R := BitVec.ofNat 64 (s.R.toNat % s.N.toNat) })

/-! ### The Rabin-Miller micro-steps -/

/-- R112: `RM_CHECK`. -/
def Obligations.RmCheckStep : Prop :=
  ∀ s : State, s.phase = .rmCheck →
    (s.N = 2#64 → exec .rmCheck s = .next { s with verdict := true, phase := .done }) ∧
    (s.N ≠ 2#64 → s.N.toNat % 2 = 0 → exec .rmCheck s = .next { s with verdict := false, phase := .done }) ∧
    (s.N = 1#64 → exec .rmCheck s = .next { s with fphase := .rmCheck, err := .domain, phase := .fault }) ∧
    (s.N.toNat % 2 = 1 → 3 ≤ s.N.toNat →
      exec .rmCheck s = .next { s with D := BitVec.ofNat 64 (s.N.toNat - 1), S := 0#64, phase := .rmDecomp })

/-- R113: `RM_DECOMP`, one step and the whole loop: a `D` that is `d * 2^k` with `d` odd becomes `d` after `k` shifts, at
most 63. That `S` does not reach `2^64` is what R34 item 4 gives. -/
def Obligations.RmDecompStep : Prop :=
  ∀ s : State, s.phase = .rmDecomp →
    (s.D.toNat % 2 = 0 → s.S.toNat + 1 < 2 ^ 64 →
      exec .rmDecomp s =
        .next { s with D := BitVec.ofNat 64 (s.D.toNat / 2), S := BitVec.ofNat 64 (s.S.toNat + 1) }) ∧
    (s.D.toNat % 2 = 1 → exec .rmDecomp s = .next { s with phase := .rmDraw }) ∧
    (∀ d k : Nat, d % 2 = 1 → d * 2 ^ k = s.D.toNat → s.S.toNat + k < 2 ^ 64 → s.pending = [] →
      k ≤ 63 ∧
      Runs (k + 1) s { s with D := BitVec.ofNat 64 d, S := BitVec.ofNat 64 (s.S.toNat + k), phase := .rmDraw })

/-- R116: `RM_DRAW` is a hold. While it lasts `WREQ` and `BUSY` are 1, `WMIN` is 2 and `WMAX` is `N - 1`; only a write
of `WIT` or reset leaves it, and without one it lasts for ever. The spec gives the sequencer no micro-step here: that a
turn is a next state with nothing changed, and that it is the turn of the instruction `RM_DRAW`, are the model's (log
entries 6 and 7). -/
def Obligations.RmDrawHolds : Prop :=
  ∀ s : State, s.phase = .rmDraw → s.Inv →
    s.levels.wreq = true ∧ s.statusWord[3] = true ∧ s.statusWord[0] = true ∧
    s.slotValue .wmin = 2#64 ∧ (s.slotValue .wmax).toNat = s.N.toNat - 1 ∧ 2 ≤ (s.slotValue .wmax).toNat ∧
    ((∀ w rest, s.pending ≠ .hostWrite .wit w :: rest) → exec .rmDraw s = .next s) ∧
    (s.pending = [] → ∀ k, Runs k s s) ∧
    (∀ t, step s = .next t → t.phase ≠ .rmDraw →
      (∃ w rest, s.pending = .hostWrite .wit w :: rest) ∨ (∃ rest, s.pending = .reset :: rest))

/-- R117: the witness hand-over completes `RM_DRAW`, for every 64-bit witness; a write to `WIT` in any other phase is
dropped. That the hand-over is the meaning of the instruction `RM_DRAW` is the model's grouping (log entry 7). -/
def Obligations.WitnessHandOver : Prop :=
  ∀ (s : State) (w : Word) (rest : List Event), s.pending = .hostWrite .wit w :: rest →
    (s.phase = .rmDraw →
      exec .rmDraw s = .next { s with WIT := w, A := w, phase := .xStart } ∧
      step s = .next { s with WIT := w, A := w, phase := .xStart, pending := rest }) ∧
    (s.phase ≠ .rmDraw → step s = .next { s with werr := true, pending := rest })

/-- R120: `RM_FIRST`. -/
def Obligations.RmFirstStep : Prop :=
  ∀ s : State, s.phase = .rmFirst →
    (s.R = 1#64 → exec .rmFirst s = .next { s with verdict := true, phase := .done }) ∧
    (s.R ≠ 1#64 → exec .rmFirst s = .next { s with I := 0#64, phase := .rmSq })

/-- R121: `RM_SQ`. The overflow condition is `R ≥ 2^32`, impossible when `R < N ≤ 2^32`. The premise `I ≤ S` is R18. -/
def Obligations.RmSqStep : Prop :=
  ∀ s : State, s.phase = .rmSq → s.I.toNat ≤ s.S.toNat →
    (s.I = s.S → exec .rmSq s = .next { s with phase := .rmVerdict }) ∧
    (s.I ≠ s.S → 2 ^ 64 ≤ s.R.toNat * s.R.toNat →
      exec .rmSq s = .next { s with fphase := .rmSq, err := .overflow, phase := .fault }) ∧
    (s.I ≠ s.S → s.R.toNat * s.R.toNat < 2 ^ 64 →
      ∃ p i : Word, p.toNat = s.R.toNat * s.R.toNat ∧ i.toNat = s.I.toNat + 1 ∧
        exec .rmSq s = .next { s with LASTM := s.R, R := p, I := i, phase := .rmSqred }) ∧
    (2 ^ 64 ≤ s.R.toNat * s.R.toNat ↔ 2 ^ 32 ≤ s.R.toNat) ∧
    (s.R.toNat < s.N.toNat → s.N.toNat ≤ 2 ^ 32 → s.R.toNat * s.R.toNat < 2 ^ 64)

/-- R122: `RM_SQRED`, one step and the whole reduction. -/
def Obligations.RmSqredStepAndLoop : Prop :=
  ∀ s : State, s.phase = .rmSqred →
    (s.N.toNat ≤ s.R.toNat → exec .rmSqred s = .next { s with R := BitVec.ofNat 64 (s.R.toNat - s.N.toNat) }) ∧
    (s.R.toNat < s.N.toNat → s.R = 1#64 → exec .rmSqred s = .next { s with phase := .rmVerdict }) ∧
    (s.R.toNat < s.N.toNat → s.R ≠ 1#64 → exec .rmSqred s = .next { s with phase := .rmSq }) ∧
    (0 < s.N.toNat → s.pending = [] →
      Runs (s.R.toNat / s.N.toNat) s { s with R := BitVec.ofNat 64 (s.R.toNat % s.N.toNat) })

/-- R123: `RM_VERDICT`. The premise `N ≥ 3` is R34 item 5. -/
def Obligations.RmVerdictStep : Prop :=
  ∀ s : State, s.phase = .rmVerdict → 3 ≤ s.N.toNat →
    (s.R.toNat = 1 → s.LASTM.toNat = s.N.toNat - 1 → exec .rmVerdict s = .next { s with verdict := true, phase := .done }) ∧
    (¬ (s.R.toNat = 1 ∧ s.LASTM.toNat = s.N.toNat - 1) →
      exec .rmVerdict s = .next { s with verdict := false, phase := .done })

/-! ### Faults and reset -/

/-- R141, R146: whatever step enters `FAULT` saves the phase in `fphase`, records a code, and changes nothing else; and
`STATUS` then shows `FAULT` and neither `BUSY` nor `DONE`. -/
def Obligations.FaultEntryChangesThreeFields : Prop :=
  ∀ s t : State, s.phase ≠ .fault → step s = .next t → t.phase = .fault →
    t = { s with fphase := s.phase, err := t.err, phase := .fault, pending := s.pending.tail } ∧ t.err ≠ .none ∧
    t.statusWord[2] = true ∧ t.statusWord[0] = false ∧ t.statusWord[1] = false ∧ t.levels.fault = true

/-- R140: which fault is raised where, and on what condition. -/
def Obligations.FaultCauses : Prop :=
  ∀ s t : State, s.Inv → s.phase ≠ .fault → step s = .next t → t.phase = .fault →
    (t.err = .nZero ∧ s.phase = .xStart ∧ s.mode = .exp ∧ s.N = 0#64) ∨
    (t.err = .overflow ∧ s.phase = .xMul ∧ s.CNT ≠ 0#64 ∧ 2 ^ 64 ≤ s.R.toNat * s.A.toNat) ∨
    (t.err = .overflow ∧ s.phase = .rmSq ∧ s.I ≠ s.S ∧ 2 ^ 64 ≤ s.R.toNat * s.R.toNat) ∨
    (t.err = .domain ∧ s.phase = .rmCheck ∧ s.N = 1#64) ∨
    (t.err = .cmd ∧ (s.phase = .idle ∨ s.phase = .done) ∧
      ∃ v rest, s.pending = .hostWrite .cmd v :: rest ∧ v ≠ 0x1#64 ∧ v ≠ 0x2#64)

/-- R51, R152: in `FAULT` every host write is dropped, every host read works, the sequencer has no step, and only reset
leaves the phase or clears `err` and `fphase`. That the sequencer's turn is a next state with nothing changed is the
model's choice (log entry 6). -/
def Obligations.OnlyResetLeavesFault : Prop :=
  ∀ s : State, s.phase = .fault →
    (∀ slot v rest, s.pending = .hostWrite slot v :: rest → step s = .next { s with werr := true, pending := rest }) ∧
    (∀ slot rest, s.pending = .hostRead slot :: rest →
      step s = .next { s with pending := rest, replies := (slot, s.slotValue slot) :: s.replies }) ∧
    (s.pending = [] ∨ (∃ rest, s.pending = .sequencer :: rest) → step s = .next { s with pending := s.pending.tail }) ∧
    (∀ t, step s = .next t → t.phase ≠ .fault ∨ t.err ≠ s.err ∨ t.fphase ≠ s.fphase →
      ∃ rest, s.pending = .reset :: rest)

/-- R170, R171: reset, in any phase, gives every register and control field its reset value. That the schedule and the
host's record of its reads stay is the model's choice (log entry 11). -/
def Obligations.ResetFromAnyState : Prop :=
  ∀ (s : State) (rest : List Event), s.pending = .reset :: rest →
    step s = .next
      { A := 0#64, D := 0#64, N := 0#64, R := 0#64, CNT := 0#64, LASTM := 0#64, S := 0#64, I := 0#64, WIT := 0#64,
        phase := .idle, mode := .exp, verdict := false, err := .none, fphase := .idle, werr := false,
        pending := rest, replies := s.replies }

/-- R35: the state after reset, and what `STATUS`, `WMIN` and `WMAX` read then. -/
def Obligations.ResetValues : Prop :=
  State.reset.A = 0#64 ∧ State.reset.D = 0#64 ∧ State.reset.N = 0#64 ∧ State.reset.R = 0#64 ∧ State.reset.CNT = 0#64 ∧
  State.reset.LASTM = 0#64 ∧ State.reset.S = 0#64 ∧ State.reset.I = 0#64 ∧ State.reset.WIT = 0#64 ∧
  State.reset.phase = .idle ∧ State.reset.mode = .exp ∧ State.reset.verdict = false ∧ State.reset.err = .none ∧
  State.reset.fphase = .idle ∧ State.reset.werr = false ∧
  State.reset.slotValue .status = 0x0000000000000000#64 ∧ State.reset.slotValue .wmin = 2#64 ∧
  State.reset.slotValue .wmax = 0xFFFFFFFFFFFFFFFF#64

/-- R172, R6: in `IDLE` (so after reset) and in `DONE` the sequencer does nothing: its turn changes nothing but the
schedule, however often it comes, and a step to another phase is a write to `CMD` or a reset. That a turn without a
step is a next state at all is the model's choice (log entry 6), and so is that the sequencer's turn comes when nothing
is pending (log entry 2). -/
def Obligations.ResetStartsNothing : Prop :=
  ∀ s : State, s.phase = .idle ∨ s.phase = .done →
    (s.pending = [] ∨ (∃ rest, s.pending = .sequencer :: rest) → step s = .next { s with pending := s.pending.tail }) ∧
    (s.pending = [] → ∀ k : Nat, Runs k s s) ∧
    (∀ t, step s = .next t → t.phase ≠ s.phase →
      (∃ v rest, s.pending = .hostWrite .cmd v :: rest) ∨ ∃ rest, s.pending = .reset :: rest)

/-! ### Who writes what -/

/-- R21: only four things write `phase`: a micro-step, a command write in `IDLE` or `DONE`, the witness hand-over in
`RM_DRAW`, and reset; the last three with the one result their rules give. -/
def Obligations.PhaseWriters : Prop :=
  ∀ s t : State, step s = .next t → t.phase ≠ s.phase →
    ((s.pending = [] ∨ ∃ rest, s.pending = .sequencer :: rest) ∧ s.phase ∉ [.idle, .rmDraw, .done, .fault]) ∨
    (∃ v rest, s.pending = .hostWrite .cmd v :: rest ∧ (s.phase = .idle ∨ s.phase = .done) ∧
      t.phase = if v = 0x1#64 then .xStart else if v = 0x2#64 then .rmCheck else .fault) ∨
    (∃ w rest, s.pending = .hostWrite .wit w :: rest ∧ s.phase = .rmDraw ∧ t.phase = .xStart) ∨
    (∃ rest, s.pending = .reset :: rest ∧ t.phase = .idle)

/-- R11 to R19, R22 to R26, the "written by" clauses: the instructions that can change each register and control field. -/
def Obligations.RegisterWriters : Prop :=
  ∀ (i : Instr) (s t : State), exec i s = .next t →
    (t.A ≠ s.A → i ∈ [.xReda, .rmDraw]) ∧
    (t.D ≠ s.D → i ∈ [.rmCheck, .rmDecomp]) ∧
    t.N = s.N ∧
    (t.R ≠ s.R → i ∈ [.xStart, .xReda, .xMul, .xRedr, .rmSq, .rmSqred]) ∧
    (t.CNT ≠ s.CNT → i ∈ [.xReda, .xMul]) ∧
    (t.LASTM ≠ s.LASTM → i = .rmSq) ∧
    (t.S ≠ s.S → i ∈ [.rmCheck, .rmDecomp]) ∧
    (t.I ≠ s.I → i ∈ [.rmFirst, .rmSq]) ∧
    (t.WIT ≠ s.WIT → i = .rmDraw) ∧
    (t.mode ≠ s.mode → i ∈ [.expmod, .rmtest]) ∧
    (t.verdict ≠ s.verdict → i ∈ [.expmod, .rmtest, .rmCheck, .rmFirst, .rmVerdict]) ∧
    (t.err ≠ s.err ∨ t.fphase ≠ s.fphase → t.phase = .fault) ∧
    (t.werr ≠ s.werr → i ∈ [.expmod, .rmtest]) ∧
    t.pending = s.pending ∧ t.replies = s.replies

/-- R10, R45: the host never writes `R`, `CNT`, `LASTM`, `S`, `I`; it writes `A`, `D` and `N` in `IDLE` and `DONE`, each
through its own slot; and the witness hand-over in `RM_DRAW` is its one other write of a data register, of `WIT` and `A`. -/
def Obligations.HostWritesOperandsOnly : Prop :=
  ∀ (s t : State) (slot : Slot) (v : Word) (rest : List Event), s.pending = .hostWrite slot v :: rest →
    step s = .next t →
    t.R = s.R ∧ t.CNT = s.CNT ∧ t.LASTM = s.LASTM ∧ t.S = s.S ∧ t.I = s.I ∧
    (t.A ≠ s.A → slot = .a ∧ (s.phase = .idle ∨ s.phase = .done) ∨ slot = .wit ∧ s.phase = .rmDraw) ∧
    (t.D ≠ s.D → slot = .d ∧ (s.phase = .idle ∨ s.phase = .done)) ∧
    (t.N ≠ s.N → slot = .n ∧ (s.phase = .idle ∨ s.phase = .done)) ∧
    (t.WIT ≠ s.WIT → slot = .wit ∧ s.phase = .rmDraw)

/-- R50, R55: while a command runs, no step but reset changes `N`, and no host access but the witness in `RM_DRAW`
changes anything but `werr`: the command cannot be disturbed, replaced or stopped. -/
def Obligations.HostCannotDisturbCommand : Prop :=
  ∀ s t : State, s.phase ∉ [.idle, .done, .fault] → step s = .next t → (¬ ∃ rest, s.pending = .reset :: rest) →
    t.N = s.N ∧ t.mode = s.mode ∧
    ((∃ slot rest, s.pending = .hostRead slot :: rest) ∨
      (∃ slot v rest, s.pending = .hostWrite slot v :: rest ∧ ¬ (slot = .wit ∧ s.phase = .rmDraw)) →
      ∃ w r, t = { s with werr := w, pending := s.pending.tail, replies := r } ∧ (s.werr = true → w = true))

/-- R24, R25, R26: nothing but reset clears `werr`, and nothing but reset and a fault's entry changes `err` and `fphase`. -/
def Obligations.StickyFields : Prop :=
  ∀ s t : State, step s = .next t → (¬ ∃ rest, s.pending = .reset :: rest) →
    (s.werr = true → t.werr = true) ∧
    (s.err ≠ t.err ∨ s.fphase ≠ t.fphase → s.phase ≠ .fault ∧ t.phase = .fault)

/-! ### Invariants -/

/-- R34: every step keeps the invariants. -/
def Obligations.StepKeepsInvariants : Prop := ∀ s t : State, s.Inv → step s = .next t → t.Inv

/-- The invariants hold after reset. -/
def Obligations.ResetHasInvariants : Prop := State.reset.Inv

/-- R34 item 3, R87, R119: every step keeps what the residue is, whatever the schedule. -/
def Obligations.StepKeepsResidue : Prop := ∀ s t : State, s.Inv → s.ResidueInv → step s = .next t → t.ResidueInv

/-- The residue invariant holds after reset. -/
def Obligations.ResetHasResidue : Prop := State.reset.ResidueInv

/-- R126, on the machine: the step that ends an `RMTEST` on an odd candidate with a verdict from the squaring loop or the
first test gives 1 iff the witness passes the strong probable-prime condition. -/
def Obligations.VerdictStepIsStrongProbablePrime : Prop :=
  ∀ s t : State, s.Inv → s.ResidueInv → s.phase ∈ [.rmFirst, .rmVerdict] →
    (s.pending = [] ∨ ∃ rest, s.pending = .sequencer :: rest) → step s = .next t → t.phase = .done →
    (t.verdict = true ↔
      s.WIT.toNat ^ s.D.toNat % s.N.toNat = 1 ∨
      ∃ r, r < s.S.toNat ∧ s.WIT.toNat ^ (s.D.toNat * 2 ^ r) % s.N.toNat = s.N.toNat - 1)

/-! ### The function view of EXPMOD, and the runs -/

/-- R94: what `ModExp` answers is the mathematical power, with `0^0 = 1`. -/
def Obligations.ModExpIsThePower : Prop := ∀ a d n r : Nat, modExp a d n = .ok r → r = a ^ d % n

/-- R95: no overflow for `0 < n ≤ 2^32`, and the bound is tight. -/
def Obligations.ModExpBelowBoundNeverOverflows : Prop :=
  (∀ a d n : Nat, 0 < n → n ≤ 2 ^ 32 → ∃ r, modExp a d n = .ok r) ∧
  modExp (2 ^ 32) 2 (2 ^ 32 + 1) = .error .overflow

/-- R96: the exact overflow condition. -/
def Obligations.ModExpOverflowCondition : Prop :=
  (∀ a d n : Nat, 0 < n → 2 ≤ d →
    (modExp a d n = .error .overflow ↔
      ∃ k, 1 ≤ k ∧ k ≤ d - 1 ∧ 2 ^ 64 ≤ (a % n) ^ k % n * (a % n))) ∧
  (∀ a d n : Nat, 0 < n → n < 2 ^ 64 → a % n ≤ 1 ∨ d ≤ 1 → ∃ r, modExp a d n = .ok r)

/-- R88, and R89, R185: an accepted `EXPMOD` whose `ModExp` is `Ok`, left to run, reaches `DONE` with `R = a^d mod n` after
exactly the micro-steps R185 counts, and with exactly the register effects R88 lists. -/
def Obligations.ExpmodRunsToItsResult : Prop :=
  ∀ (s : State) (r : Nat), s.phase = .idle ∨ s.phase = .done → s.pending = [.hostWrite .cmd 0x1#64] →
    modExp s.A.toNat s.D.toNat s.N.toNat = .ok r →
    Runs (1 + expmodSteps s.A.toNat s.D.toNat s.N.toNat) s
      { s with
        mode := .exp, verdict := false, phase := .done, pending := [],
        R := BitVec.ofNat 64 (s.A.toNat ^ s.D.toNat % s.N.toNat),
        A := if s.D = 0#64 then s.A else BitVec.ofNat 64 (s.A.toNat % s.N.toNat),
        CNT := if s.D = 0#64 then s.CNT else 0#64 }

/-- R93, R96, R185: an accepted `EXPMOD` that overflows faults at its first overflowing multiplication `k`, with `A` the
reduced base, `R = r_k`, `CNT = d - k`, `fphase = 3`, after the micro-steps R185 counts; one with `N = 0` faults at
once, with no data register changed. -/
def Obligations.ExpmodRunsToItsFault : Prop :=
  ∀ s : State, s.phase = .idle ∨ s.phase = .done → s.pending = [.hostWrite .cmd 0x1#64] →
    (s.N = 0#64 →
      Runs (1 + expmodSteps s.A.toNat s.D.toNat s.N.toNat) s
        { s with mode := .exp, verdict := false, fphase := .xStart, err := .nZero, phase := .fault, pending := [] }) ∧
    (∀ k : Nat, s.N ≠ 0#64 → 1 ≤ k → k < s.D.toNat →
      (∀ j, 1 ≤ j → j < k → (s.A.toNat % s.N.toNat) ^ j % s.N.toNat * (s.A.toNat % s.N.toNat) < 2 ^ 64) →
      2 ^ 64 ≤ (s.A.toNat % s.N.toNat) ^ k % s.N.toNat * (s.A.toNat % s.N.toNat) →
      Runs (1 + expmodOverflowSteps s.A.toNat k s.N.toNat) s
        { s with
          mode := .exp, verdict := false, fphase := .xMul, err := .overflow, phase := .fault, pending := [],
          A := BitVec.ofNat 64 (s.A.toNat % s.N.toNat),
          R := BitVec.ofNat 64 ((s.A.toNat % s.N.toNat) ^ k % s.N.toNat),
          CNT := BitVec.ofNat 64 (s.D.toNat - k) })

/-- R93, first sentence: the two views of `EXPMOD` agree, in both directions and for both outcomes. -/
def Obligations.ExpmodViewsAgree : Prop :=
  ∀ s : State, s.phase = .idle ∨ s.phase = .done → s.pending = [.hostWrite .cmd 0x1#64] →
    (∀ r : Nat, (∃ k t, 1 ≤ k ∧ Runs k s t ∧ t.phase = .done ∧ t.R.toNat = r) ↔
      modExp s.A.toNat s.D.toNat s.N.toNat = .ok r) ∧
    (∀ c : ErrCode, (∃ k t, 1 ≤ k ∧ Runs k s t ∧ t.phase = .fault ∧ t.err = c) ↔
      modExp s.A.toNat s.D.toNat s.N.toNat = .error c)

/-! ### The function view of RMTEST, and the runs -/

/-- R114: the decomposition of an odd 64-bit candidate gives an odd `d` and `1 ≤ s ≤ 63` with `d * 2^s = n - 1`, and no
other pair does. -/
def Obligations.DecompositionLaw : Prop :=
  ∀ n : Nat, n % 2 = 1 → 3 ≤ n → n < 2 ^ 64 →
    (splitEven 63 (n - 1) 0).1 % 2 = 1 ∧ 1 ≤ (splitEven 63 (n - 1) 0).2 ∧ (splitEven 63 (n - 1) 0).2 ≤ 63 ∧
    (splitEven 63 (n - 1) 0).1 * 2 ^ (splitEven 63 (n - 1) 0).2 = n - 1 ∧
    (∀ d k : Nat, d % 2 = 1 → d * 2 ^ k = n - 1 → (d, k) = splitEven 63 (n - 1) 0)

/-- R127, R128: an accepted `RMTEST` on 2, on an even number or on 1 ends after one micro-step, with no witness drawn
and no data register changed. -/
def Obligations.RmtestWithoutDraw : Prop :=
  ∀ s : State, s.phase = .idle ∨ s.phase = .done → s.pending = [.hostWrite .cmd 0x2#64] →
    (s.N.toNat % 2 = 0 →
      Runs 2 s { s with mode := .rm, verdict := decide (s.N = 2#64), phase := .done, pending := [] }) ∧
    (s.N = 1#64 →
      Runs 2 s
        { s with mode := .rm, verdict := false, fphase := .rmCheck, err := .domain, phase := .fault, pending := [] })

/-- R114, R115, R128: an accepted `RMTEST` on an odd `N ≥ 3` holds in `RM_DRAW` after exactly `S + 2` micro-steps, with
`(D, S)` the decomposition of `N`, whatever `D` and `S` held before, and no other data register changed. -/
def Obligations.RmtestReachesTheDraw : Prop :=
  ∀ (s : State) (d k : Nat), s.phase = .idle ∨ s.phase = .done → s.pending = [.hostWrite .cmd 0x2#64] →
    s.OddCandidate → d % 2 = 1 → d * 2 ^ k = s.N.toNat - 1 →
    Runs (1 + (k + 2)) s
      { s with
        mode := .rm, verdict := false, phase := .rmDraw, pending := [],
        D := BitVec.ofNat 64 d, S := BitVec.ofNat 64 k }

/-- R125, R127, R128: given any 64-bit witness, an `RMTEST` whose `RMTest` is a verdict reaches `DONE` with that verdict,
and with the register effects R127 lists. -/
def Obligations.RmtestRunsToItsVerdict : Prop :=
  ∀ (s : State) (w : Word) (v : Bool), s.phase = .rmDraw → s.mode = .rm → s.OddCandidate → s.Decomposed →
    s.pending = [.hostWrite .wit w] → rmTest s.N.toNat w.toNat = .ok v →
    ∃ k t, Runs k s t ∧ t.phase = .done ∧ t.mode = .rm ∧ t.verdict = v ∧ t.N = s.N ∧ t.D = s.D ∧ t.S = s.S ∧
      t.WIT = w ∧ t.A.toNat = w.toNat % s.N.toNat ∧ t.CNT = 0#64 ∧
      t.err = s.err ∧ t.fphase = s.fphase ∧ t.werr = s.werr ∧ (v = true → t.R = 1#64) ∧
      (w.toNat ^ s.D.toNat % s.N.toNat = 1 → t.R = 1#64 ∧ t.LASTM = s.LASTM ∧ t.I = s.I) ∧
      (w.toNat ^ s.D.toNat % s.N.toNat ≠ 1 →
        1 ≤ t.I.toNat ∧ t.I.toNat ≤ t.S.toNat ∧
        t.LASTM.toNat = w.toNat ^ (s.D.toNat * 2 ^ (t.I.toNat - 1)) % s.N.toNat ∧
        t.R.toNat = w.toNat ^ (s.D.toNat * 2 ^ t.I.toNat) % s.N.toNat)

/-- R125: given any 64-bit witness, an `RMTEST` whose `RMTest` is a fault reaches `FAULT` with `ERR_OVERFLOW`, raised in
`X_MUL` or `RM_SQ`, and no verdict. -/
def Obligations.RmtestRunsToItsFault : Prop :=
  ∀ (s : State) (w : Word) (c : ErrCode), s.phase = .rmDraw → s.mode = .rm → s.OddCandidate → s.Decomposed →
    s.pending = [.hostWrite .wit w] → rmTest s.N.toNat w.toNat = .error c →
    c = .overflow ∧
    ∃ k t, Runs k s t ∧ t.phase = .fault ∧ t.err = .overflow ∧ (t.fphase = .xMul ∨ t.fphase = .rmSq) ∧
      t.verdict = s.verdict ∧ t.N = s.N ∧ t.WIT = w

/-- R126: what the verdict means, on the function view. -/
def Obligations.VerdictMeaning : Prop :=
  ∀ (n w d k : Nat) (v : Bool), n % 2 = 1 → 3 ≤ n → n < 2 ^ 64 → d % 2 = 1 → d * 2 ^ k = n - 1 → rmTest n w = .ok v →
    (v = true ↔ w ^ d % n = 1 ∨ ∃ r, r < k ∧ w ^ (d * 2 ^ r) % n = n - 1)

/-- R126: the witness `n - 1` passes every odd candidate, composite or not, whenever no overflow occurs. -/
def Obligations.LargestWitnessAlwaysPasses : Prop :=
  ∀ (n : Nat) (v : Bool), n % 2 = 1 → 3 ≤ n → n < 2 ^ 64 → rmTest n (n - 1) = .ok v → v = true

/-- R181: for every odd candidate the witness 0 gives "composite" and 1 "probably prime", and a witness of `N` or more
acts as its remainder. -/
def Obligations.OutOfRangeWitnesses : Prop :=
  ∀ n : Nat, n % 2 = 1 → 3 ≤ n → n < 2 ^ 64 →
    rmTest n 0 = .ok false ∧ rmTest n 1 = .ok true ∧ ∀ w, rmTest n w = rmTest n (w % n)

/-- R175, last sentence: for `N ≤ 2^32` (and `N ≠ 1`) `RMTEST` is fault-free for every witness. -/
def Obligations.RmtestBelowBoundNeverFaults : Prop :=
  ∀ n w : Nat, n ≠ 1 → n ≤ 2 ^ 32 → ∃ v, rmTest n w = .ok v

/-- `93_implementation_defined.md` G1: a prime of at most `2^32` passes with every witness in `[2, n - 1]`. The spec
gives this as a theorem to prove, not as a rule of the machine. -/
def Obligations.PrimesAlwaysPass : Prop :=
  ∀ n w : Nat, n.Prime → n ≤ 2 ^ 32 → 2 ≤ w → w ≤ n - 1 → rmTest n w = .ok true

/-! ### Host scripts -/

/-- R67, on `WAIT` and `WITNESS`: a `WAIT` ends on the `STATUS` the block then has, with `BUSY = 0` or `WREQ = 1`; and
after it, whatever slots are read in between, `WITNESS w` is legal iff it ended with `WREQ = 1`, and hands `w` over. That
the sequencer takes one turn between two reads of `WAIT` is the model's choice (log entry 17); log entry 22 says when
`WITNESS` is legal, and that none falls between the statements after it is log entry 23. -/
def Obligations.WitnessIsLegalAfterItsWait : Prop :=
  ∀ (fuel : Nat) (x y : ScriptRun), runLine fuel x .wait = some y →
    y.waitEnd = some y.block.statusWord ∧ (y.block.statusWord[0] = false ∨ y.block.statusWord[3] = true) ∧
    (∀ (reads : List Slot) (w : Word),
      (y.block.statusWord[3] = true →
        ∃ z, runScript fuel y (reads.map (fun slot => .stmt (.rd slot)) ++ [.witness w]) = some z ∧
          z.block = { y.block with WIT := w, A := w, phase := .xStart, replies := z.block.replies }) ∧
      (y.block.statusWord[3] = false →
        runScript fuel y (reads.map (fun slot => .stmt (.rd slot)) ++ [.witness w]) = none))
end

