-- ==== Sys2Proof/Laws/State.lean ====
section
/-! SUPPORT. One lemma per field per update of the state, true by rfl. -/

namespace Sys2Proof.Machine

/-! ### `State.raiseFault` -/

@[simp] theorem State.raiseFault_A (s : State) (c : ErrCode) : (s.raiseFault c).A = s.A := rfl
@[simp] theorem State.raiseFault_D (s : State) (c : ErrCode) : (s.raiseFault c).D = s.D := rfl
@[simp] theorem State.raiseFault_N (s : State) (c : ErrCode) : (s.raiseFault c).N = s.N := rfl
@[simp] theorem State.raiseFault_R (s : State) (c : ErrCode) : (s.raiseFault c).R = s.R := rfl
@[simp] theorem State.raiseFault_CNT (s : State) (c : ErrCode) : (s.raiseFault c).CNT = s.CNT := rfl
@[simp] theorem State.raiseFault_LASTM (s : State) (c : ErrCode) : (s.raiseFault c).LASTM = s.LASTM := rfl
@[simp] theorem State.raiseFault_S (s : State) (c : ErrCode) : (s.raiseFault c).S = s.S := rfl
@[simp] theorem State.raiseFault_I (s : State) (c : ErrCode) : (s.raiseFault c).I = s.I := rfl
@[simp] theorem State.raiseFault_WIT (s : State) (c : ErrCode) : (s.raiseFault c).WIT = s.WIT := rfl
@[simp] theorem State.raiseFault_phase (s : State) (c : ErrCode) : (s.raiseFault c).phase = .fault := rfl
@[simp] theorem State.raiseFault_mode (s : State) (c : ErrCode) : (s.raiseFault c).mode = s.mode := rfl
@[simp] theorem State.raiseFault_verdict (s : State) (c : ErrCode) : (s.raiseFault c).verdict = s.verdict := rfl
@[simp] theorem State.raiseFault_err (s : State) (c : ErrCode) : (s.raiseFault c).err = c := rfl
@[simp] theorem State.raiseFault_fphase (s : State) (c : ErrCode) : (s.raiseFault c).fphase = s.phase := rfl
@[simp] theorem State.raiseFault_werr (s : State) (c : ErrCode) : (s.raiseFault c).werr = s.werr := rfl
@[simp] theorem State.raiseFault_pending (s : State) (c : ErrCode) : (s.raiseFault c).pending = s.pending := rfl
@[simp] theorem State.raiseFault_replies (s : State) (c : ErrCode) : (s.raiseFault c).replies = s.replies := rfl

/-! ### `State.applyReset` -/

@[simp] theorem State.applyReset_A (s : State) : (s.applyReset).A = 0#64 := rfl
@[simp] theorem State.applyReset_D (s : State) : (s.applyReset).D = 0#64 := rfl
@[simp] theorem State.applyReset_N (s : State) : (s.applyReset).N = 0#64 := rfl
@[simp] theorem State.applyReset_R (s : State) : (s.applyReset).R = 0#64 := rfl
@[simp] theorem State.applyReset_CNT (s : State) : (s.applyReset).CNT = 0#64 := rfl
@[simp] theorem State.applyReset_LASTM (s : State) : (s.applyReset).LASTM = 0#64 := rfl
@[simp] theorem State.applyReset_S (s : State) : (s.applyReset).S = 0#64 := rfl
@[simp] theorem State.applyReset_I (s : State) : (s.applyReset).I = 0#64 := rfl
@[simp] theorem State.applyReset_WIT (s : State) : (s.applyReset).WIT = 0#64 := rfl
@[simp] theorem State.applyReset_phase (s : State) : (s.applyReset).phase = .idle := rfl
@[simp] theorem State.applyReset_mode (s : State) : (s.applyReset).mode = .exp := rfl
@[simp] theorem State.applyReset_verdict (s : State) : (s.applyReset).verdict = false := rfl
@[simp] theorem State.applyReset_err (s : State) : (s.applyReset).err = .none := rfl
@[simp] theorem State.applyReset_fphase (s : State) : (s.applyReset).fphase = .idle := rfl
@[simp] theorem State.applyReset_werr (s : State) : (s.applyReset).werr = false := rfl
@[simp] theorem State.applyReset_pending (s : State) : (s.applyReset).pending = s.pending := rfl
@[simp] theorem State.applyReset_replies (s : State) : (s.applyReset).replies = s.replies := rfl

/-! ### `State.xexit` -/

@[simp] theorem State.xexit_A (s : State) : (s.xexit).A = s.A := rfl
@[simp] theorem State.xexit_D (s : State) : (s.xexit).D = s.D := rfl
@[simp] theorem State.xexit_N (s : State) : (s.xexit).N = s.N := rfl
@[simp] theorem State.xexit_R (s : State) : (s.xexit).R = s.R := rfl
@[simp] theorem State.xexit_CNT (s : State) : (s.xexit).CNT = s.CNT := rfl
@[simp] theorem State.xexit_LASTM (s : State) : (s.xexit).LASTM = s.LASTM := rfl
@[simp] theorem State.xexit_S (s : State) : (s.xexit).S = s.S := rfl
@[simp] theorem State.xexit_I (s : State) : (s.xexit).I = s.I := rfl
@[simp] theorem State.xexit_WIT (s : State) : (s.xexit).WIT = s.WIT := rfl
@[simp] theorem State.xexit_phase (s : State) : (s.xexit).phase = match s.mode with | .exp => .done | .rm => .rmFirst := rfl
@[simp] theorem State.xexit_mode (s : State) : (s.xexit).mode = s.mode := rfl
@[simp] theorem State.xexit_verdict (s : State) : (s.xexit).verdict = s.verdict := rfl
@[simp] theorem State.xexit_err (s : State) : (s.xexit).err = s.err := rfl
@[simp] theorem State.xexit_fphase (s : State) : (s.xexit).fphase = s.fphase := rfl
@[simp] theorem State.xexit_werr (s : State) : (s.xexit).werr = s.werr := rfl
@[simp] theorem State.xexit_pending (s : State) : (s.xexit).pending = s.pending := rfl
@[simp] theorem State.xexit_replies (s : State) : (s.xexit).replies = s.replies := rfl

/-! ### `State.dropWrite` -/

@[simp] theorem State.dropWrite_A (s : State) : (s.dropWrite).A = s.A := rfl
@[simp] theorem State.dropWrite_D (s : State) : (s.dropWrite).D = s.D := rfl
@[simp] theorem State.dropWrite_N (s : State) : (s.dropWrite).N = s.N := rfl
@[simp] theorem State.dropWrite_R (s : State) : (s.dropWrite).R = s.R := rfl
@[simp] theorem State.dropWrite_CNT (s : State) : (s.dropWrite).CNT = s.CNT := rfl
@[simp] theorem State.dropWrite_LASTM (s : State) : (s.dropWrite).LASTM = s.LASTM := rfl
@[simp] theorem State.dropWrite_S (s : State) : (s.dropWrite).S = s.S := rfl
@[simp] theorem State.dropWrite_I (s : State) : (s.dropWrite).I = s.I := rfl
@[simp] theorem State.dropWrite_WIT (s : State) : (s.dropWrite).WIT = s.WIT := rfl
@[simp] theorem State.dropWrite_phase (s : State) : (s.dropWrite).phase = s.phase := rfl
@[simp] theorem State.dropWrite_mode (s : State) : (s.dropWrite).mode = s.mode := rfl
@[simp] theorem State.dropWrite_verdict (s : State) : (s.dropWrite).verdict = s.verdict := rfl
@[simp] theorem State.dropWrite_err (s : State) : (s.dropWrite).err = s.err := rfl
@[simp] theorem State.dropWrite_fphase (s : State) : (s.dropWrite).fphase = s.fphase := rfl
@[simp] theorem State.dropWrite_werr (s : State) : (s.dropWrite).werr = true := rfl
@[simp] theorem State.dropWrite_pending (s : State) : (s.dropWrite).pending = s.pending := rfl
@[simp] theorem State.dropWrite_replies (s : State) : (s.dropWrite).replies = s.replies := rfl

/-! ### `State.handOver` -/

@[simp] theorem State.handOver_A (s : State) (w : Word) : (s.handOver w).A = w := rfl
@[simp] theorem State.handOver_D (s : State) (w : Word) : (s.handOver w).D = s.D := rfl
@[simp] theorem State.handOver_N (s : State) (w : Word) : (s.handOver w).N = s.N := rfl
@[simp] theorem State.handOver_R (s : State) (w : Word) : (s.handOver w).R = s.R := rfl
@[simp] theorem State.handOver_CNT (s : State) (w : Word) : (s.handOver w).CNT = s.CNT := rfl
@[simp] theorem State.handOver_LASTM (s : State) (w : Word) : (s.handOver w).LASTM = s.LASTM := rfl
@[simp] theorem State.handOver_S (s : State) (w : Word) : (s.handOver w).S = s.S := rfl
@[simp] theorem State.handOver_I (s : State) (w : Word) : (s.handOver w).I = s.I := rfl
@[simp] theorem State.handOver_WIT (s : State) (w : Word) : (s.handOver w).WIT = w := rfl
@[simp] theorem State.handOver_phase (s : State) (w : Word) : (s.handOver w).phase = .xStart := rfl
@[simp] theorem State.handOver_mode (s : State) (w : Word) : (s.handOver w).mode = s.mode := rfl
@[simp] theorem State.handOver_verdict (s : State) (w : Word) : (s.handOver w).verdict = s.verdict := rfl
@[simp] theorem State.handOver_err (s : State) (w : Word) : (s.handOver w).err = s.err := rfl
@[simp] theorem State.handOver_fphase (s : State) (w : Word) : (s.handOver w).fphase = s.fphase := rfl
@[simp] theorem State.handOver_werr (s : State) (w : Word) : (s.handOver w).werr = s.werr := rfl
@[simp] theorem State.handOver_pending (s : State) (w : Word) : (s.handOver w).pending = s.pending := rfl
@[simp] theorem State.handOver_replies (s : State) (w : Word) : (s.handOver w).replies = s.replies := rfl

/-! ### `State.answerRead` -/

@[simp] theorem State.answerRead_A (s : State) (slot : Slot) : (s.answerRead slot).A = s.A := rfl
@[simp] theorem State.answerRead_D (s : State) (slot : Slot) : (s.answerRead slot).D = s.D := rfl
@[simp] theorem State.answerRead_N (s : State) (slot : Slot) : (s.answerRead slot).N = s.N := rfl
@[simp] theorem State.answerRead_R (s : State) (slot : Slot) : (s.answerRead slot).R = s.R := rfl
@[simp] theorem State.answerRead_CNT (s : State) (slot : Slot) : (s.answerRead slot).CNT = s.CNT := rfl
@[simp] theorem State.answerRead_LASTM (s : State) (slot : Slot) : (s.answerRead slot).LASTM = s.LASTM := rfl
@[simp] theorem State.answerRead_S (s : State) (slot : Slot) : (s.answerRead slot).S = s.S := rfl
@[simp] theorem State.answerRead_I (s : State) (slot : Slot) : (s.answerRead slot).I = s.I := rfl
@[simp] theorem State.answerRead_WIT (s : State) (slot : Slot) : (s.answerRead slot).WIT = s.WIT := rfl
@[simp] theorem State.answerRead_phase (s : State) (slot : Slot) : (s.answerRead slot).phase = s.phase := rfl
@[simp] theorem State.answerRead_mode (s : State) (slot : Slot) : (s.answerRead slot).mode = s.mode := rfl
@[simp] theorem State.answerRead_verdict (s : State) (slot : Slot) : (s.answerRead slot).verdict = s.verdict := rfl
@[simp] theorem State.answerRead_err (s : State) (slot : Slot) : (s.answerRead slot).err = s.err := rfl
@[simp] theorem State.answerRead_fphase (s : State) (slot : Slot) : (s.answerRead slot).fphase = s.fphase := rfl
@[simp] theorem State.answerRead_werr (s : State) (slot : Slot) : (s.answerRead slot).werr = s.werr := rfl
@[simp] theorem State.answerRead_pending (s : State) (slot : Slot) : (s.answerRead slot).pending = s.pending := rfl
@[simp] theorem State.answerRead_replies (s : State) (slot : Slot) : (s.answerRead slot).replies = (slot, s.slotValue slot) :: s.replies := rfl

/-! ### `State.advance` -/

@[simp] theorem State.advance_A (s : State) : (s.advance).A = s.A := rfl
@[simp] theorem State.advance_D (s : State) : (s.advance).D = s.D := rfl
@[simp] theorem State.advance_N (s : State) : (s.advance).N = s.N := rfl
@[simp] theorem State.advance_R (s : State) : (s.advance).R = s.R := rfl
@[simp] theorem State.advance_CNT (s : State) : (s.advance).CNT = s.CNT := rfl
@[simp] theorem State.advance_LASTM (s : State) : (s.advance).LASTM = s.LASTM := rfl
@[simp] theorem State.advance_S (s : State) : (s.advance).S = s.S := rfl
@[simp] theorem State.advance_I (s : State) : (s.advance).I = s.I := rfl
@[simp] theorem State.advance_WIT (s : State) : (s.advance).WIT = s.WIT := rfl
@[simp] theorem State.advance_phase (s : State) : (s.advance).phase = s.phase := rfl
@[simp] theorem State.advance_mode (s : State) : (s.advance).mode = s.mode := rfl
@[simp] theorem State.advance_verdict (s : State) : (s.advance).verdict = s.verdict := rfl
@[simp] theorem State.advance_err (s : State) : (s.advance).err = s.err := rfl
@[simp] theorem State.advance_fphase (s : State) : (s.advance).fphase = s.fphase := rfl
@[simp] theorem State.advance_werr (s : State) : (s.advance).werr = s.werr := rfl
@[simp] theorem State.advance_pending (s : State) : (s.advance).pending = s.pending.tail := rfl
@[simp] theorem State.advance_replies (s : State) : (s.advance).replies = s.replies := rfl

/-! ### The updates that depend on whether the block accepts: their two cases -/

theorem State.giveCommand_accepted {s : State} (h : s.phase.accepts = true) (m : Mode) (p : Phase) :
    s.giveCommand m p = { s with verdict := false, mode := m, phase := p } := if_pos h

theorem State.giveCommand_refused {s : State} (h : s.phase.accepts = false) (m : Mode) (p : Phase) :
    s.giveCommand m p = s.dropWrite := by simp [State.giveCommand, h]

theorem State.giveIllegalCommand_accepted {s : State} (h : s.phase.accepts = true) :
    s.giveIllegalCommand = s.raiseFault .cmd := if_pos h

theorem State.giveIllegalCommand_refused {s : State} (h : s.phase.accepts = false) :
    s.giveIllegalCommand = s.dropWrite := by simp [State.giveIllegalCommand, h]

theorem State.writeA_accepted {s : State} (h : s.phase.accepts = true) (v : Word) : s.writeA v = { s with A := v } := if_pos h

theorem State.writeA_refused {s : State} (h : s.phase.accepts = false) (v : Word) : s.writeA v = s.dropWrite := by
  simp [State.writeA, h]

theorem State.writeD_accepted {s : State} (h : s.phase.accepts = true) (v : Word) : s.writeD v = { s with D := v } := if_pos h

theorem State.writeD_refused {s : State} (h : s.phase.accepts = false) (v : Word) : s.writeD v = s.dropWrite := by
  simp [State.writeD, h]

theorem State.writeN_accepted {s : State} (h : s.phase.accepts = true) (v : Word) : s.writeN v = { s with N := v } := if_pos h

theorem State.writeN_refused {s : State} (h : s.phase.accepts = false) (v : Word) : s.writeN v = s.dropWrite := by
  simp [State.writeN, h]

/-- What the block accepts in, as the spec names it. -/
theorem Phase.accepts_iff {p : Phase} : p.accepts = true ↔ p = .idle ∨ p = .done := by cases p <;> simp [Phase.accepts]

theorem Phase.accepts_eq_false_iff {p : Phase} : p.accepts = false ↔ p ≠ .idle ∧ p ≠ .done := by
  cases p <;> simp [Phase.accepts]

end Sys2Proof.Machine
end

