-- ==== Sys2Proof/Laws/Ops.lean ====
section
/-! SUPPORT. What each shared operation can do, said once. -/

namespace Sys2Proof.Machine

/-! ### The exact product -/

theorem mulExact_none {x y : Word} : mulExact x y = none ↔ 2 ^ 64 ≤ x.toNat * y.toNat := by
  unfold mulExact; split <;> simp <;> omega

theorem mulExact_some {x y p : Word} :
    mulExact x y = some p ↔ x.toNat * y.toNat < 2 ^ 64 ∧ p = BitVec.ofNat 64 (x.toNat * y.toNat) := by
  unfold mulExact
  split
  · rename_i h; simp only [h, true_and, Option.some.injEq, eq_comm]
  · rename_i h; simp only [h, false_and, iff_false]; exact Option.some_ne_none p ∘ Eq.symm

/-- The product that is kept is the mathematical product. -/
theorem mulExact_toNat {x y p : Word} (h : mulExact x y = some p) : p.toNat = x.toNat * y.toNat := by
  obtain ⟨hlt, rfl⟩ := mulExact_some.1 h
  rw [BitVec.toNat_ofNat, Nat.mod_eq_of_lt hlt]

/-! ### One guarded subtraction -/

theorem subtractOnce_none {x n : Word} : subtractOnce x n = none ↔ x.toNat < n.toNat := by
  unfold subtractOnce; split <;> simp_all [BitVec.le_def]

theorem subtractOnce_some {x n y : Word} : subtractOnce x n = some y ↔ n.toNat ≤ x.toNat ∧ y = x - n := by
  unfold subtractOnce; split <;> simp_all [BitVec.le_def, eq_comm]

/-- The difference is the mathematical difference: it never borrows (R90). -/
theorem subtractOnce_toNat {x n y : Word} (h : subtractOnce x n = some y) :
    n.toNat ≤ x.toNat ∧ y.toNat = x.toNat - n.toNat := by
  obtain ⟨hle, rfl⟩ := subtractOnce_some.1 h
  exact ⟨hle, BitVec.toNat_sub_of_le (BitVec.le_def.2 hle)⟩

/-- A subtraction keeps the value modulo `N` (R91). -/
theorem subtractOnce_mod {x n y : Word} (h : subtractOnce x n = some y) : y.toNat % n.toNat = x.toNat % n.toNat := by
  obtain ⟨hle, hy⟩ := subtractOnce_toNat h
  rw [hy]; exact (Nat.mod_eq_sub_mod hle).symm

/-- A nonzero word is a positive number. -/
theorem toNat_pos {x : Word} (h : x ≠ 0#64) : 0 < x.toNat := by
  have : x.toNat ≠ 0 := fun e => h (BitVec.eq_of_toNat_eq (by simpa using e))
  omega

/-- `x - 1` is the mathematical predecessor of a nonzero word. -/
theorem toNat_sub_one {x : Word} (h : x ≠ 0#64) : (x - 1#64).toNat = x.toNat - 1 := by
  have : x.toNat ≠ 0 := fun e => h (BitVec.eq_of_toNat_eq (by simpa using e))
  exact BitVec.toNat_sub_of_le (by simp [BitVec.le_def]; omega)

/-- `x + 1` is the mathematical successor of a word that has one. -/
theorem toNat_add_one {x : Word} (h : x.toNat + 1 < 2 ^ 64) : (x + 1#64).toNat = x.toNat + 1 := by
  simp [BitVec.toNat_add]; omega

/-- The low bit of a word is its parity. -/
theorem bit_zero_eq_false {x : Word} : x[0] = false ↔ x.toNat % 2 = 0 := by
  rw [← BitVec.getLsbD_eq_getElem]; simp [BitVec.getLsbD]

/-! ### The schedule -/

@[simp] theorem State.event_nil {s : State} (h : s.pending = []) : s.event = .sequencer := by simp [State.event, h]

@[simp] theorem State.event_cons {s : State} {e : Event} {rest : List Event} (h : s.pending = e :: rest) : s.event = e := by
  simp [State.event, h]

/-- The sequencer moves when its turn is pending, or nothing is. -/
theorem State.event_sequencer {s : State} : s.event = .sequencer ↔ s.pending = [] ∨ ∃ rest, s.pending = .sequencer :: rest := by
  unfold State.event; split <;> simp_all

/-- Any other event is pending itself. -/
theorem State.pending_of_event {s : State} {e : Event} (h : s.event = e) (hs : e ≠ .sequencer) :
    ∃ rest, s.pending = e :: rest := by
  unfold State.event at h; split at h <;> simp_all

/-! ### A host write -/

/-- A host write that runs no instruction is an operand write, an illegal command or a dropped write (R45). -/
theorem State.writeSlot_cases (s : State) (slot : Slot) (v : Word) :
    (s.phase.accepts = true ∧ slot = .a ∧ s.writeSlot slot v = { s with A := v }) ∨
    (s.phase.accepts = true ∧ slot = .d ∧ s.writeSlot slot v = { s with D := v }) ∨
    (s.phase.accepts = true ∧ slot = .n ∧ s.writeSlot slot v = { s with N := v }) ∨
    (s.phase.accepts = true ∧ slot = .cmd ∧ s.writeSlot slot v = s.raiseFault .cmd) ∨
    s.writeSlot slot v = s.dropWrite := by
  cases h : s.phase.accepts <;> cases slot <;>
    simp [State.writeSlot, State.writeA, State.writeD, State.writeN, State.giveIllegalCommand, h]

end Sys2Proof.Machine
end

