-- ==== Sys2Proof/Laws/PerInstr.lean ====
section
/-! SUPPORT. The family `EncodeDecode`, one lemma per instruction. -/

namespace Sys2Proof.Laws

/-- The encoder's word for an instruction is a well-formed word of the opcode table, and decodes to it. -/
def EncodeDecode.Statement (i : Instr) : Prop :=
  i.wellFormed = true ∧ (encode i).wellFormed = true ∧ decode (encode i) = .ok i

theorem EncodeDecode.expmod : EncodeDecode.Statement .expmod := ⟨rfl, by decide, by decide⟩

theorem EncodeDecode.rmtest : EncodeDecode.Statement .rmtest := ⟨rfl, by decide, by decide⟩

theorem EncodeDecode.xStart : EncodeDecode.Statement .xStart := ⟨rfl, by decide, by decide⟩

theorem EncodeDecode.xReda : EncodeDecode.Statement .xReda := ⟨rfl, by decide, by decide⟩

theorem EncodeDecode.xMul : EncodeDecode.Statement .xMul := ⟨rfl, by decide, by decide⟩

theorem EncodeDecode.xRedr : EncodeDecode.Statement .xRedr := ⟨rfl, by decide, by decide⟩

theorem EncodeDecode.rmCheck : EncodeDecode.Statement .rmCheck := ⟨rfl, by decide, by decide⟩

theorem EncodeDecode.rmDecomp : EncodeDecode.Statement .rmDecomp := ⟨rfl, by decide, by decide⟩

theorem EncodeDecode.rmDraw : EncodeDecode.Statement .rmDraw := ⟨rfl, by decide, by decide⟩

theorem EncodeDecode.rmFirst : EncodeDecode.Statement .rmFirst := ⟨rfl, by decide, by decide⟩

theorem EncodeDecode.rmSq : EncodeDecode.Statement .rmSq := ⟨rfl, by decide, by decide⟩

theorem EncodeDecode.rmSqred : EncodeDecode.Statement .rmSqred := ⟨rfl, by decide, by decide⟩

theorem EncodeDecode.rmVerdict : EncodeDecode.Statement .rmVerdict := ⟨rfl, by decide, by decide⟩

end Sys2Proof.Laws
end

