-- ==== Sys2Proof/Laws/Runs.lean ====
section
/-! SUPPORT. Runs compose. -/

namespace Sys2Proof.Machine

theorem runs_zero (s : State) : Runs 0 s s := rfl

theorem runs_zero_iff {s t : State} : Runs 0 s t ↔ t = s := Iff.rfl

/-- A run of `k + 1` transitions is a step with a next state and a run of `k`. -/
theorem runs_succ {k : Nat} {s u : State} : Runs (k + 1) s u ↔ ∃ t, step s = .next t ∧ Runs k t u := Iff.rfl

theorem runs_of_step {k : Nat} {s t u : State} (h : step s = .next t) (hr : Runs k t u) : Runs (k + 1) s u :=
  runs_succ.2 ⟨t, h, hr⟩

theorem runs_one {s t : State} (h : step s = .next t) : Runs 1 s t := runs_of_step h (runs_zero t)

theorem runs_trans {j k : Nat} {s t u : State} (h1 : Runs j s t) (h2 : Runs k t u) : Runs (j + k) s u := by
  induction j generalizing s with
  | zero => rw [runs_zero_iff.1 h1] at h2; simpa using h2
  | succ j ih =>
    obtain ⟨v, hv, hr⟩ := runs_succ.1 h1
    rw [Nat.add_right_comm]
    exact runs_of_step hv (ih hr)

/-- The machine is deterministic: a run of a given length has one end. -/
theorem runs_unique {k : Nat} {s t u : State} (h1 : Runs k s t) (h2 : Runs k s u) : t = u := by
  induction k generalizing s with
  | zero => exact (runs_zero_iff.1 h1).trans (runs_zero_iff.1 h2).symm
  | succ k ih =>
    obtain ⟨v, hv, hr⟩ := runs_succ.1 h1
    obtain ⟨w, hw, hr'⟩ := runs_succ.1 h2
    obtain rfl : v = w := Host.Outcome.next.inj (hv.symm.trans hw)
    exact ih hr hr'

end Sys2Proof.Machine
end

