-- ==== Sys2Proof/Laws/Step.lean ====
section
/-! SUPPORT. What each micro-step and each step can do, said once. -/

namespace Sys2Proof.Machine

/-! ### The micro-steps, case by case -/

theorem execXStart_cases (s : State) :
    (s.N = 0#64 ∧ execXStart s = .next (s.raiseFault .nZero)) ∨
    (s.N ≠ 0#64 ∧ s.D = 0#64 ∧ execXStart s = .next (State.xexit { s with R := if s.N = 1#64 then 0#64 else 1#64 })) ∨
    (s.N ≠ 0#64 ∧ s.D ≠ 0#64 ∧ execXStart s = .next { s with phase := .xReda }) := by
  by_cases hN : s.N = 0#64
  · exact .inl ⟨hN, by simp [execXStart, hN]⟩
  · by_cases hD : s.D = 0#64
    · exact .inr (.inl ⟨hN, hD, by simp [execXStart, hN, hD]⟩)
    · exact .inr (.inr ⟨hN, hD, by simp [execXStart, hN, hD]⟩)

theorem execXReda_cases (s : State) :
    (s.N.toNat ≤ s.A.toNat ∧ execXReda s = .next { s with A := s.A - s.N }) ∨
    (s.A.toNat < s.N.toNat ∧ execXReda s = .next { s with R := s.A, CNT := s.D - 1#64, phase := .xMul }) := by
  cases h : subtractOnce s.A s.N with
  | none => exact .inr ⟨subtractOnce_none.1 h, by simp [execXReda, h]⟩
  | some a =>
    obtain ⟨hle, rfl⟩ := subtractOnce_some.1 h
    exact .inl ⟨hle, by simp [execXReda, h]⟩

theorem execXMul_cases (s : State) :
    (s.CNT = 0#64 ∧ execXMul s = .next s.xexit) ∨
    (s.CNT ≠ 0#64 ∧ 2 ^ 64 ≤ s.R.toNat * s.A.toNat ∧ execXMul s = .next (s.raiseFault .overflow)) ∨
    (s.CNT ≠ 0#64 ∧ s.R.toNat * s.A.toNat < 2 ^ 64 ∧
      execXMul s =
        .next { s with R := BitVec.ofNat 64 (s.R.toNat * s.A.toNat), CNT := s.CNT - 1#64, phase := .xRedr }) := by
  by_cases hc : s.CNT = 0#64
  · exact .inl ⟨hc, by simp [execXMul, hc]⟩
  · cases h : mulExact s.R s.A with
    | none => exact .inr (.inl ⟨hc, mulExact_none.1 h, by simp [execXMul, hc, h]⟩)
    | some p =>
      obtain ⟨hlt, rfl⟩ := mulExact_some.1 h
      exact .inr (.inr ⟨hc, hlt, by simp [execXMul, hc, h]⟩)

theorem execXRedr_cases (s : State) :
    (s.N.toNat ≤ s.R.toNat ∧ execXRedr s = .next { s with R := s.R - s.N }) ∨
    (s.R.toNat < s.N.toNat ∧ execXRedr s = .next { s with phase := .xMul }) := by
  cases h : subtractOnce s.R s.N with
  | none => exact .inr ⟨subtractOnce_none.1 h, by simp [execXRedr, h]⟩
  | some a =>
    obtain ⟨hle, rfl⟩ := subtractOnce_some.1 h
    exact .inl ⟨hle, by simp [execXRedr, h]⟩

theorem execRmCheck_cases (s : State) :
    (s.N = 2#64 ∧ execRmCheck s = .next { s with verdict := true, phase := .done }) ∨
    (s.N ≠ 2#64 ∧ s.N.toNat % 2 = 0 ∧ execRmCheck s = .next { s with verdict := false, phase := .done }) ∨
    (s.N = 1#64 ∧ execRmCheck s = .next (s.raiseFault .domain)) ∨
    (s.N.toNat % 2 = 1 ∧ 3 ≤ s.N.toNat ∧ execRmCheck s = .next { s with D := s.N - 1#64, S := 0#64, phase := .rmDecomp }) := by
  by_cases h2 : s.N = 2#64
  · exact .inl ⟨h2, by simp [execRmCheck, h2]⟩
  · cases h0 : s.N[0] with
    | false => exact .inr (.inl ⟨h2, bit_zero_eq_false.1 h0, by simp only [execRmCheck, h2, h0, if_true, if_false]⟩)
    | true =>
      have hodd : ¬ s.N.toNat % 2 = 0 := fun e => by rw [bit_zero_eq_false.2 e] at h0; cases h0
      by_cases h1 : s.N = 1#64
      · exact .inr (.inr (.inl ⟨h1, by simp [execRmCheck, h1]⟩))
      · have h1' : s.N.toNat ≠ 1 := fun e => h1 (BitVec.eq_of_toNat_eq (by simpa using e))
        exact .inr (.inr (.inr ⟨by omega, by omega, by simp [execRmCheck, h2, h0, h1]⟩))

theorem execRmDecomp_cases (s : State) :
    (s.D.toNat % 2 = 0 ∧ execRmDecomp s = .next { s with D := s.D >>> 1, S := s.S + 1#64 }) ∨
    (s.D.toNat % 2 = 1 ∧ execRmDecomp s = .next { s with phase := .rmDraw }) := by
  cases h0 : s.D[0] with
  | false => exact .inl ⟨bit_zero_eq_false.1 h0, by simp only [execRmDecomp, h0, if_true]⟩
  | true =>
    have hodd : ¬ s.D.toNat % 2 = 0 := fun e => by rw [bit_zero_eq_false.2 e] at h0; cases h0
    exact .inr ⟨by omega, by simp [execRmDecomp, h0]⟩

theorem execRmDraw_cases (s : State) :
    (∃ w, s.event = .hostWrite .wit w ∧ execRmDraw s = .next (s.handOver w)) ∨
    ((∀ w, s.event ≠ .hostWrite .wit w) ∧ execRmDraw s = .next s) := by
  unfold execRmDraw
  split
  · rename_i w h; exact .inl ⟨w, h, rfl⟩
  · rename_i h; exact .inr ⟨fun w hw => h w hw, rfl⟩

theorem execRmFirst_cases (s : State) :
    (s.R = 1#64 ∧ execRmFirst s = .next { s with verdict := true, phase := .done }) ∨
    (s.R ≠ 1#64 ∧ execRmFirst s = .next { s with I := 0#64, phase := .rmSq }) := by
  by_cases h : s.R = 1#64
  · exact .inl ⟨h, by simp [execRmFirst, h]⟩
  · exact .inr ⟨h, by simp [execRmFirst, h]⟩

theorem execRmSq_cases (s : State) :
    (s.I = s.S ∧ execRmSq s = .next { s with phase := .rmVerdict }) ∨
    (s.I ≠ s.S ∧ 2 ^ 64 ≤ s.R.toNat * s.R.toNat ∧ execRmSq s = .next (s.raiseFault .overflow)) ∨
    (s.I ≠ s.S ∧ s.R.toNat * s.R.toNat < 2 ^ 64 ∧
      execRmSq s =
        .next { s with LASTM := s.R, R := BitVec.ofNat 64 (s.R.toNat * s.R.toNat), I := s.I + 1#64, phase := .rmSqred }) := by
  by_cases hc : s.I = s.S
  · exact .inl ⟨hc, by simp [execRmSq, hc]⟩
  · cases h : mulExact s.R s.R with
    | none => exact .inr (.inl ⟨hc, mulExact_none.1 h, by simp [execRmSq, hc, h]⟩)
    | some p =>
      obtain ⟨hlt, rfl⟩ := mulExact_some.1 h
      exact .inr (.inr ⟨hc, hlt, by simp [execRmSq, hc, h]⟩)

theorem execRmSqred_cases (s : State) :
    (s.N.toNat ≤ s.R.toNat ∧ execRmSqred s = .next { s with R := s.R - s.N }) ∨
    (s.R.toNat < s.N.toNat ∧ s.R = 1#64 ∧ execRmSqred s = .next { s with phase := .rmVerdict }) ∨
    (s.R.toNat < s.N.toNat ∧ s.R ≠ 1#64 ∧ execRmSqred s = .next { s with phase := .rmSq }) := by
  cases h : subtractOnce s.R s.N with
  | none =>
    by_cases h1 : s.R = 1#64
    · exact .inr (.inl ⟨subtractOnce_none.1 h, h1, by simp only [execRmSqred, h]; rw [if_pos h1]⟩)
    · exact .inr (.inr ⟨subtractOnce_none.1 h, h1, by simp only [execRmSqred, h]; rw [if_neg h1]⟩)
  | some a =>
    obtain ⟨hle, rfl⟩ := subtractOnce_some.1 h
    exact .inl ⟨hle, by simp [execRmSqred, h]⟩

theorem execExpmod_eq (s : State) : execExpmod s = .next (s.giveCommand .exp .xStart) := rfl

theorem execRmtest_eq (s : State) : execRmtest s = .next (s.giveCommand .rm .rmCheck) := rfl

theorem execRmVerdict_eq (s : State) :
    execRmVerdict s = .next { s with verdict := decide (s.R = 1#64 ∧ s.LASTM = s.N - 1#64), phase := .done } := rfl

/-- Every instruction has a next state in every state. -/
theorem exec_next (i : Instr) (s : State) : ∃ t, exec i s = .next t := by cases i <;> exact ⟨_, rfl⟩

/-! ### The step -/

/-- The two commands decode from 1 and 2 alone. -/
theorem decodeCommand_ok {v : Word} {i : Instr} (h : decodeCommand v = .ok i) :
    (v = 1#64 ∧ i = .expmod) ∨ (v = 2#64 ∧ i = .rmtest) := by
  have hv : zeroField v = 0#60 → v.toNat = (opField v).toNat := fun hz => by
    have := congrArg BitVec.toNat hz
    simp [zeroField, opField, Nat.shiftRight_eq_div_pow] at this ⊢
    omega
  unfold decodeCommand at h
  split at h
  · rename_i hz
    split at h <;> simp at h <;> subst h
    · rename_i ho; exact .inl ⟨BitVec.eq_of_toNat_eq (by rw [hv hz, ho]; rfl), rfl⟩
    · rename_i ho; exact .inr ⟨BitVec.eq_of_toNat_eq (by rw [hv hz, ho]; rfl), rfl⟩
  · simp at h

/-- The instruction the sequencer runs in each phase. -/
theorem State.fetch_sequencer {s : State} (h : s.event = .sequencer) :
    s.fetch = match s.phase with
      | .idle => none
      | .xStart => some .xStart
      | .xReda => some .xReda
      | .xMul => some .xMul
      | .xRedr => some .xRedr
      | .rmCheck => some .rmCheck
      | .rmDecomp => some .rmDecomp
      | .rmDraw => some .rmDraw
      | .rmFirst => some .rmFirst
      | .rmSq => some .rmSq
      | .rmSqred => some .rmSqred
      | .rmVerdict => some .rmVerdict
      | .done => none
      | .fault => none := by
  unfold State.fetch; rw [h]; cases s.phase <;> rfl

/-- A sequencer turn, phase by phase. -/
theorem step_sequencer {s : State} (h : s.event = .sequencer) :
    step s = moveOn (match s.phase with
      | .idle => .next s
      | .xStart => execXStart s
      | .xReda => execXReda s
      | .xMul => execXMul s
      | .xRedr => execXRedr s
      | .rmCheck => execRmCheck s
      | .rmDecomp => execRmDecomp s
      | .rmDraw => .next s
      | .rmFirst => execRmFirst s
      | .rmSq => execRmSq s
      | .rmSqred => execRmSqred s
      | .rmVerdict => execRmVerdict s
      | .done => .next s
      | .fault => .next s) := by
  unfold step; rw [State.fetch_sequencer h]
  cases hp : s.phase <;> simp [exec, State.uninstructed, execRmDraw, h]

theorem step_hostRead {s : State} {slot : Slot} (h : s.event = .hostRead slot) :
    step s = .next (s.answerRead slot).advance := by
  simp [step, State.fetch, State.uninstructed, moveOn, h]

theorem step_reset {s : State} (h : s.event = .reset) : step s = .next s.applyReset.advance := by
  simp [step, State.fetch, State.uninstructed, moveOn, h]

theorem step_hostOffSlot {s : State} (h : s.event = .hostOffSlot) : step s = .refused .notWholeSlot := by
  simp [step, State.fetch, State.uninstructed, moveOn, h]

theorem step_expmod {s : State} (h : s.event = .hostWrite .cmd 1#64) :
    step s = .next (s.giveCommand .exp .xStart).advance := by
  have : s.fetch = some .expmod := by unfold State.fetch; rw [h]; rfl
  simp [step, this, exec, execExpmod, moveOn]

theorem step_rmtest {s : State} (h : s.event = .hostWrite .cmd 2#64) :
    step s = .next (s.giveCommand .rm .rmCheck).advance := by
  have : s.fetch = some .rmtest := by unfold State.fetch; rw [h]; rfl
  simp [step, this, exec, execRmtest, moveOn]

theorem step_illegalCommand {s : State} {v : Word} (h : s.event = .hostWrite .cmd v) (h1 : v ≠ 1#64) (h2 : v ≠ 2#64) :
    step s = .next s.giveIllegalCommand.advance := by
  have : s.fetch = none := by
    unfold State.fetch; rw [h]
    show (decodeCommand v).toOption = none
    cases hd : decodeCommand v with
    | error e => rfl
    | ok i => rcases decodeCommand_ok hd with ⟨e, -⟩ | ⟨e, -⟩ <;> contradiction
  simp [step, this, State.uninstructed, State.writeSlot, h, moveOn]

theorem step_handOver {s : State} {w : Word} (h : s.event = .hostWrite .wit w) (hp : s.phase = .rmDraw) :
    step s = .next (s.handOver w).advance := by
  have : s.fetch = some .rmDraw := by unfold State.fetch; rw [h]; simp only [hp, if_true]; rfl
  simp [step, this, exec, execRmDraw, h, moveOn]

theorem step_writeSlot {s : State} {slot : Slot} {v : Word} (h : s.event = .hostWrite slot v) (hc : slot ≠ .cmd)
    (hw : ¬ (slot = .wit ∧ s.phase = .rmDraw)) : step s = .next (s.writeSlot slot v).advance := by
  have : s.fetch = none := by
    unfold State.fetch; rw [h]; cases slot <;> simp_all
  simp [step, this, State.uninstructed, h, moveOn]

/-- EVERYTHING A MICRO-STEP CAN DO, by what it leaves alone: it writes data registers other than `N` and `WIT`, `phase` and
`verdict`, without a fault; or it raises one of the faults of R140 and does nothing else. -/
theorem microStep_cases {s u : State} {i : Instr} (he : s.event = .sequencer) (hf : s.fetch = some i)
    (hu : exec i s = .next u) :
    (∃ A D R CNT LASTM S I phase verdict,
      u = { s with
        A := A, D := D, R := R, CNT := CNT, LASTM := LASTM, S := S, I := I, phase := phase, verdict := verdict } ∧
      phase ≠ .fault) ∨
    (∃ c, u = s.raiseFault c ∧ c ≠ .none ∧
      ((c = .nZero ∧ s.phase = .xStart ∧ s.N = 0#64) ∨
        (c = .overflow ∧ s.phase = .xMul ∧ s.CNT ≠ 0#64 ∧ 2 ^ 64 ≤ s.R.toNat * s.A.toNat) ∨
        (c = .overflow ∧ s.phase = .rmSq ∧ s.I ≠ s.S ∧ 2 ^ 64 ≤ s.R.toNat * s.R.toNat) ∨
        (c = .domain ∧ s.phase = .rmCheck ∧ s.N = 1#64))) := by
  rw [State.fetch_sequencer he] at hf
  cases hp : s.phase <;> rw [hp] at hf <;> simp at hf <;> subst hf <;> simp only [exec] at hu
  · rcases execXStart_cases s with ⟨h, e⟩ | ⟨h, hd, e⟩ | ⟨h, hd, e⟩ <;> rw [e] at hu <;> cases hu
    · exact .inr ⟨_, rfl, by simp, by simp [h]⟩
    · left; refine ⟨_,_,_,_,_,_,_,_,_, rfl, ?_⟩; cases s.mode <;> simp
    · left; refine ⟨_,_,_,_,_,_,_,_,_, rfl, ?_⟩; simp
  · rcases execXReda_cases s with ⟨h, e⟩ | ⟨h, e⟩ <;> rw [e] at hu <;> cases hu <;> left <;> refine ⟨_,_,_,_,_,_,_,_,_, rfl, ?_⟩ <;> simp [hp]
  · rcases execXMul_cases s with ⟨h, e⟩ | ⟨h, hd, e⟩ | ⟨h, hd, e⟩ <;> rw [e] at hu <;> cases hu
    · left; refine ⟨_,_,_,_,_,_,_,_,_, rfl, ?_⟩; cases s.mode <;> simp
    · exact .inr ⟨_, rfl, by simp, by simp; exact ⟨h, hd⟩⟩
    · left; refine ⟨_,_,_,_,_,_,_,_,_, rfl, ?_⟩; simp
  · rcases execXRedr_cases s with ⟨h, e⟩ | ⟨h, e⟩ <;> rw [e] at hu <;> cases hu <;> left <;> refine ⟨_,_,_,_,_,_,_,_,_, rfl, ?_⟩ <;> simp [hp]
  · rcases execRmCheck_cases s with ⟨h, e⟩ | ⟨h, hd, e⟩ | ⟨h, e⟩ | ⟨h, hd, e⟩ <;> rw [e] at hu <;> cases hu
    · left; refine ⟨_,_,_,_,_,_,_,_,_, rfl, ?_⟩; simp
    · left; refine ⟨_,_,_,_,_,_,_,_,_, rfl, ?_⟩; simp
    · exact .inr ⟨_, rfl, by simp, by simp [h]⟩
    · left; refine ⟨_,_,_,_,_,_,_,_,_, rfl, ?_⟩; simp
  · rcases execRmDecomp_cases s with ⟨h, e⟩ | ⟨h, e⟩ <;> rw [e] at hu <;> cases hu <;> left <;> refine ⟨_,_,_,_,_,_,_,_,_, rfl, ?_⟩ <;> simp [hp]
  · simp only [execRmDraw, he] at hu; cases hu
    left; refine ⟨_,_,_,_,_,_,_,_,_, rfl, ?_⟩; simp [hp]
  · rcases execRmFirst_cases s with ⟨h, e⟩ | ⟨h, e⟩ <;> rw [e] at hu <;> cases hu <;> left <;> refine ⟨_,_,_,_,_,_,_,_,_, rfl, ?_⟩ <;> simp
  · rcases execRmSq_cases s with ⟨h, e⟩ | ⟨h, hd, e⟩ | ⟨h, hd, e⟩ <;> rw [e] at hu <;> cases hu
    · left; refine ⟨_,_,_,_,_,_,_,_,_, rfl, ?_⟩; simp
    · exact .inr ⟨_, rfl, by simp, by simp; exact ⟨h, hd⟩⟩
    · left; refine ⟨_,_,_,_,_,_,_,_,_, rfl, ?_⟩; simp
  · rcases execRmSqred_cases s with ⟨h, e⟩ | ⟨h, hd, e⟩ | ⟨h, hd, e⟩ <;> rw [e] at hu <;> cases hu <;> left <;> refine ⟨_,_,_,_,_,_,_,_,_, rfl, ?_⟩ <;> simp [hp]
  · rw [execRmVerdict_eq] at hu; cases hu; left; refine ⟨_,_,_,_,_,_,_,_,_, rfl, ?_⟩; simp

/-- EVERYTHING A STEP CAN DO. A step with a next state is one of: a turn of the sequencer without a step, a micro-step,
a host read, a command, an illegal command, the witness hand-over, another host write, a reset. -/
theorem step_cases {s t : State} (h : step s = .next t) :
    (s.event = .sequencer ∧ (s.phase = .idle ∨ s.phase = .rmDraw ∨ s.phase = .done ∨ s.phase = .fault) ∧ t = s.advance) ∨
    (s.event = .sequencer ∧ ∃ i u, s.fetch = some i ∧ i ≠ .rmDraw ∧ exec i s = .next u ∧ t = u.advance) ∨
    (∃ slot, s.event = .hostRead slot ∧ t = (s.answerRead slot).advance) ∨
    (s.event = .hostWrite .cmd 1#64 ∧ t = (s.giveCommand .exp .xStart).advance) ∨
    (s.event = .hostWrite .cmd 2#64 ∧ t = (s.giveCommand .rm .rmCheck).advance) ∨
    (∃ v, v ≠ 1#64 ∧ v ≠ 2#64 ∧ s.event = .hostWrite .cmd v ∧ t = s.giveIllegalCommand.advance) ∨
    (∃ w, s.event = .hostWrite .wit w ∧ s.phase = .rmDraw ∧ t = (s.handOver w).advance) ∨
    (∃ slot v, s.event = .hostWrite slot v ∧ slot ≠ .cmd ∧ ¬ (slot = .wit ∧ s.phase = .rmDraw) ∧
      t = (s.writeSlot slot v).advance) ∨
    (s.event = .reset ∧ t = s.applyReset.advance) := by
  cases he : s.event with
  | sequencer =>
    have hf := State.fetch_sequencer he
    by_cases hp : s.phase = .idle ∨ s.phase = .rmDraw ∨ s.phase = .done ∨ s.phase = .fault
    · rw [step_sequencer he] at h
      refine .inl ⟨rfl, hp, ?_⟩
      rcases hp with hp | hp | hp | hp <;> rw [hp] at h <;> exact (Host.Outcome.next.inj h).symm
    · refine .inr (.inl ⟨rfl, ?_⟩)
      have hi : ∃ i, s.fetch = some i ∧ i ≠ .rmDraw := by
        rw [hf]; cases hq : s.phase <;> simp_all
      obtain ⟨i, hi, hne⟩ := hi
      obtain ⟨u, hu⟩ := exec_next i s
      refine ⟨i, u, hi, hne, hu, ?_⟩
      simp [step, hi, hu, moveOn] at h
      exact h.symm
  | hostRead slot => rw [step_hostRead he] at h; exact .inr (.inr (.inl ⟨slot, rfl, (Host.Outcome.next.inj h).symm⟩))
  | hostOffSlot => rw [step_hostOffSlot he] at h; cases h
  | reset =>
    rw [step_reset he] at h
    exact .inr (.inr (.inr (.inr (.inr (.inr (.inr (.inr ⟨rfl, (Host.Outcome.next.inj h).symm⟩)))))))
  | hostWrite slot v =>
    by_cases hc : slot = .cmd
    · subst hc
      by_cases h1 : v = 1#64
      · subst h1; rw [step_expmod he] at h
        exact .inr (.inr (.inr (.inl ⟨rfl, (Host.Outcome.next.inj h).symm⟩)))
      · by_cases h2 : v = 2#64
        · subst h2; rw [step_rmtest he] at h
          exact .inr (.inr (.inr (.inr (.inl ⟨rfl, (Host.Outcome.next.inj h).symm⟩))))
        · rw [step_illegalCommand he h1 h2] at h
          exact .inr (.inr (.inr (.inr (.inr (.inl ⟨v, h1, h2, rfl, (Host.Outcome.next.inj h).symm⟩)))))
    · by_cases hw : slot = .wit ∧ s.phase = .rmDraw
      · obtain ⟨rfl, hp⟩ := hw
        rw [step_handOver he hp] at h
        exact .inr (.inr (.inr (.inr (.inr (.inr (.inl ⟨v, rfl, hp, (Host.Outcome.next.inj h).symm⟩))))))
      · rw [step_writeSlot he hc hw] at h
        exact .inr (.inr (.inr (.inr (.inr (.inr (.inr (.inl
          ⟨slot, v, rfl, hc, hw, (Host.Outcome.next.inj h).symm⟩)))))))

end Sys2Proof.Machine
end

