-- ==== Sys2Proof/Laws/Script.lean ====
section
/-! SUPPORT. What one access of a script does, and how a `WAIT` ends. -/

namespace Sys2Proof.Machine

/-- A read always has a next state: the host has the value, the block is as it was (R44). -/
theorem State.happen_hostRead (s : State) (slot : Slot) : s.happen (.hostRead slot) = some (s.answerRead slot) := by
  have h : step { s with pending := .hostRead slot :: s.pending } = .next (s.answerRead slot) := by
    rw [step_hostRead (State.event_cons (rest := s.pending) rfl)]; rfl
  simp only [State.happen, h]

/-- The witness write in `RM_DRAW` hands the witness over (R117). -/
theorem State.happen_handOver {s : State} {w : Word} (hp : s.phase = .rmDraw) :
    s.happen (.hostWrite .wit w) = some (s.handOver w) := by
  have h : step { s with pending := .hostWrite .wit w :: s.pending } = .next (s.handOver w) :=
    step_handOver (s := { s with pending := .hostWrite .wit w :: s.pending }) (State.event_cons (rest := s.pending) rfl) hp
  simp only [State.happen, h]

/-- If a `WAIT` ends, its last read returned the `STATUS` the block then has, which says that the wait is over (R67). -/
theorem runWait_ends {fuel : Nat} {s t : State} (h : runWait fuel s = some t) :
    t.lastStatus = some t.statusWord ∧ waitOver t.statusWord = true := by
  induction fuel generalizing s with
  | zero => cases h
  | succ fuel ih =>
    simp only [runWait, State.happen_hostRead] at h
    split at h
    · rename_i hs
      cases h
      have hw : waitOver s.statusWord = true := by
        simpa [State.lastStatus, State.answerRead, State.slotValue] using hs
      exact ⟨rfl, hw⟩
    · split at h
      · cases h
      · exact ih h

end Sys2Proof.Machine
end

