-- ==== Sys2Proof/Tests/Slice0.lean ====
section
/-! SUPPORT. Tests. Expected values come from the spec: the tables of R61 and R65 and the vectors of
95_test_vectors.md (X, M, H, P numbers). -/

namespace Sys2Proof.Tests

open Sys2Proof.Machine

/-- The next state of one step, if it has one. -/
def after (s : State) : Option State :=
  match step s with
  | .next t => some t
  | .fault _ => none
  | .refused _ => none

/-- A small state: reset, but for a phase, a mode, and the registers given. -/
def block (p : Phase) (m : Mode := .exp) (A D N R CNT LASTM S I : Word := 0#64) : State :=
  { State.reset with phase := p, mode := m, A := A, D := D, N := N, R := R, CNT := CNT, LASTM := LASTM, S := S, I := I }

/-- The same state with one event pending. -/
def withEvent (e : Event) (s : State) : State := { s with pending := [e] }

/-! ### Well-formedness: each check refuses an ill-formed word -/

theorem test_wf_refuses_command_zero : commandWellFormed 0x0#64 = false := by decide

theorem test_wf_refuses_upper_bit : (Encoded.command 0x8000000000000001#64).wellFormed = false := by decide

theorem test_wf_refuses_idle_code : phaseCodeWellFormed 0#4 = false := by decide

theorem test_wf_refuses_done_code : (Encoded.phaseCode 12#4).wellFormed = false := by decide

theorem test_wf_accepts_every_instruction : Instr.expmod.wellFormed = true ∧ Instr.rmVerdict.wellFormed = true := by decide

/-! ### Decoding: every row's word written out from the spec's encoding (R61, R65) -/

theorem test_decode_expmod : decode (.command 0x0000000000000001#64) = .ok .expmod := by decide

theorem test_decode_rmtest : decode (.command 0x0000000000000002#64) = .ok .rmtest := by decide

theorem test_decode_xStart : decode (.phaseCode 0b0001#4) = .ok .xStart := by decide

theorem test_decode_xReda : decode (.phaseCode 0b0010#4) = .ok .xReda := by decide

theorem test_decode_xMul : decode (.phaseCode 0b0011#4) = .ok .xMul := by decide

theorem test_decode_xRedr : decode (.phaseCode 0b0100#4) = .ok .xRedr := by decide

theorem test_decode_rmCheck : decode (.phaseCode 0b0101#4) = .ok .rmCheck := by decide

theorem test_decode_rmDecomp : decode (.phaseCode 0b0110#4) = .ok .rmDecomp := by decide

theorem test_decode_rmDraw : decode (.phaseCode 0b0111#4) = .ok .rmDraw := by decide

theorem test_decode_rmFirst : decode (.phaseCode 0b1000#4) = .ok .rmFirst := by decide

theorem test_decode_rmSq : decode (.phaseCode 0b1001#4) = .ok .rmSq := by decide

theorem test_decode_rmSqred : decode (.phaseCode 0b1010#4) = .ok .rmSqred := by decide

theorem test_decode_rmVerdict : decode (.phaseCode 0b1011#4) = .ok .rmVerdict := by decide

theorem test_decode_refuses_three : decode (.command 3#64) = .error .illegalCommand := by decide

theorem test_decode_refuses_fault_code : decode (.phaseCode 13#4) = .error .phaseWithoutStep := by decide

theorem test_decode_refuses_code_fifteen : decode (.phaseCode 15#4) = .error .unusedPhaseCode := by decide

theorem test_table_words : decodeTableWord 64 0x1 = some .expmod ∧ decodeTableWord 8 0x1 = some .xStart ∧
    decodeTableWord 64 0x3 = none ∧ decodeTableWord 8 0xC = none := by decide

theorem test_fetch_word_runs_first :
    (after (State.reset.withFetchWord 64 0x2)).map (fun t => t.phase) = some .rmCheck ∧
      (after (State.reset.withFetchWord 8 0x5)).map (fun t => t.phase) = some .done := by decide

/-! ### Reset and the host's accesses (vectors H) -/

theorem test_H1_status_after_reset :
    (after (withEvent (.hostRead .status) .reset)).map (fun t => t.replies) = some [(.status, 0#64)] := by decide

theorem test_H2_wmax_after_reset : State.reset.slotValue .wmax = 0xFFFFFFFFFFFFFFFF#64 := by decide

theorem test_H7_write_to_R_dropped :
    (after (withEvent (.hostWrite .r 5#64) .reset)).map (fun t => (t.R, t.statusWord)) = some (0#64, 0x40#64) := by decide

theorem test_H12_illegal_command :
    (after (withEvent (.hostWrite .cmd 0x8000000000000001#64) .reset)).map (fun t => t.statusWord) = some 0xd404#64 := by decide

theorem test_H18_illegal_command_while_busy :
    (after (withEvent (.hostWrite .cmd 0#64) (block .xRedr))).map (fun t => t.statusWord) = some 0x4041#64 := by decide

theorem test_H23_operand_write_in_done :
    (after (withEvent (.hostWrite .n 10#64) (block .done (N := 5#64) (R := 1#64)))).map (fun t => (t.N, t.R, t.statusWord)) =
      some (10#64, 1#64, 0xc002#64) := by decide

theorem test_H25_illegal_command_from_done :
    (after (withEvent (.hostWrite .cmd 3#64) { block .done .rm with verdict := true })).map (fun t => t.statusWord) =
      some 0xcd434#64 := by decide

theorem test_H29_reset_leaves_fault :
    (after (withEvent .reset { block .fault (A := 4294967296#64) with err := .overflow, werr := true })) = some .reset := by decide

/-! ### One step of each instruction -/

theorem test_H14_expmod_accepted :
    (after (withEvent (.hostWrite .cmd 1#64) .reset)).map (fun t => t.statusWord) = some 0x1001#64 := by decide

theorem test_H17_expmod_dropped_while_busy :
    (after (withEvent (.hostWrite .cmd 1#64) (block .xRedr))).map (fun t => (t.phase, t.werr)) = some (.xRedr, true) := by decide

theorem test_H24_rmtest_accepted_in_done :
    (after (withEvent (.hostWrite .cmd 2#64) (block .done (A := 3#64) (R := 1#64)))).map (fun t => (t.statusWord, t.R, t.A)) =
      some (0x5011#64, 1#64, 3#64) := by decide

theorem test_X17_xStart_zero_modulus :
    (after (block .xStart (A := 5#64))).map (fun t => t.statusWord) = some 0x1d104#64 := by decide

theorem test_X5_xStart_zero_exponent :
    (after (block .xStart (A := 5#64) (N := 1#64))).map (fun t => (t.R, t.A, t.statusWord)) =
      some (0#64, 5#64, 0xc002#64) := by decide

theorem test_X8_xReda_subtracts :
    (after (block .xReda (A := 17#64) (D := 3#64) (N := 5#64))).map (fun t => (t.A, t.phase)) = some (12#64, .xReda) := by decide

theorem test_P1_xReda_leaves :
    (after (block .xReda (A := 4#64) (D := 13#64) (N := 497#64))).map (fun t => (t.R, t.CNT, t.phase)) =
      some (4#64, 12#64, .xMul) := by decide

theorem test_P1_xMul_multiplies :
    (after (block .xMul (A := 4#64) (N := 497#64) (R := 256#64) (CNT := 9#64))).map (fun t => (t.R, t.CNT, t.phase)) =
      some (1024#64, 8#64, .xRedr) := by decide

theorem test_X18_xMul_overflows :
    (after (block .xMul (A := 4294967296#64) (R := 4294967296#64) (CNT := 1#64))).map (fun t => (t.R, t.CNT, t.statusWord)) =
      some (4294967296#64, 1#64, 0x3d204#64) := by decide

theorem test_P1_xRedr_subtracts :
    (after (block .xRedr (N := 497#64) (R := 1024#64))).map (fun t => (t.R, t.phase)) = some (527#64, .xRedr) := by decide

theorem test_P1_xRedr_leaves :
    (after (block .xRedr (N := 497#64) (R := 30#64))).map (fun t => (t.R, t.phase)) = some (30#64, .xMul) := by decide

theorem test_M5_rmCheck_one :
    (after (block .rmCheck .rm (N := 1#64))).map (fun t => t.statusWord) = some 0x5d314#64 := by decide

theorem test_P2_rmCheck_odd :
    (after (block .rmCheck .rm (N := 13#64) (S := 9#64))).map (fun t => (t.D, t.S, t.phase)) =
      some (12#64, 0#64, .rmDecomp) := by decide

theorem test_P2_rmDecomp_shifts :
    (after (block .rmDecomp .rm (D := 12#64) (N := 13#64))).map (fun t => (t.D, t.S)) = some (6#64, 1#64) := by decide

theorem test_P2_rmDecomp_leaves :
    (after (block .rmDecomp .rm (D := 3#64) (N := 13#64) (S := 2#64))).map (fun t => (t.D, t.S, t.statusWord)) =
      some (3#64, 2#64, 0x7019#64) := by decide

theorem test_P2_rmDraw_holds :
    after (block .rmDraw .rm (D := 3#64) (N := 13#64) (S := 2#64)) =
      some (block .rmDraw .rm (D := 3#64) (N := 13#64) (S := 2#64)) := by decide

theorem test_P2_rmDraw_hand_over :
    (after (withEvent (.hostWrite .wit 5#64) (block .rmDraw .rm (D := 3#64) (N := 13#64) (S := 2#64)))).map
      (fun t => (t.WIT, t.A, t.statusWord)) = some (5#64, 5#64, 0x1011#64) := by decide

theorem test_M23_rmFirst_one :
    (after (block .rmFirst .rm (N := 2047#64) (R := 1#64) (I := 7#64))).map (fun t => (t.I, t.statusWord)) =
      some (7#64, 0xc032#64) := by decide

theorem test_P2_rmFirst_not_one :
    (after (block .rmFirst .rm (N := 13#64) (R := 8#64) (I := 7#64))).map (fun t => (t.I, t.phase)) =
      some (0#64, .rmSq) := by decide

theorem test_P2_rmSq_squares :
    (after (block .rmSq .rm (N := 13#64) (R := 8#64) (S := 2#64))).map (fun t => (t.R, t.LASTM, t.I, t.phase)) =
      some (64#64, 8#64, 1#64, .rmSqred) := by decide

theorem test_M32_rmSq_overflows :
    (after (block .rmSq .rm (N := 4294967297#64) (R := 4294967296#64) (LASTM := 65536#64) (S := 32#64) (I := 5#64))).map
      (fun t => (t.LASTM, t.I, t.statusWord)) = some (65536#64, 5#64, 0x9d214#64) := by decide

theorem test_P2_rmSqred_early_exit :
    (after (block .rmSqred .rm (N := 13#64) (R := 1#64))).map (fun t => t.phase) = some .rmVerdict := by decide

theorem test_P2_rmSqred_tests_the_reduced_value_only :
    (after (block .rmSqred .rm (N := 13#64) (R := 14#64))).map (fun t => (t.R, t.phase)) = some (1#64, .rmSqred) := by decide

theorem test_P2_rmVerdict_prime :
    (after (block .rmVerdict .rm (N := 13#64) (R := 1#64) (LASTM := 12#64))).map (fun t => t.statusWord) =
      some 0xc032#64 := by decide

theorem test_P3_rmVerdict_composite :
    (after (block .rmVerdict .rm (N := 561#64) (R := 1#64) (LASTM := 67#64))).map (fun t => t.statusWord) =
      some 0xc012#64 := by decide

/-! ### The function views and the script notation -/

theorem test_X1_view_and_count : modExp 2 10 1000 = .ok 24 ∧ expmodSteps 2 10 1000 = 22 := by decide

theorem test_X33_view_overflows : modExp 2 64 18446744073709551615 = .error .overflow := by decide

theorem test_M20_view : rmTest 25 7 = .ok true ∧ rmTest 561 2 = .ok false ∧ rmTest 1 2 = .error .domain := by decide

theorem test_script_even_candidate :
    (runLine 3 State.reset.beginScript (.rabin 4#64 0#64)).map (fun x => x.block.lastStatus) = some (some 0xc012#64) := by
  decide

/-- The order of P2 (`WAIT`; `RD WMIN`; `RD WMAX`; `WITNESS`), on the candidate 3. -/
theorem test_P2_script_reads_between_wait_and_witness :
    (runScript 5 State.reset.beginScript
      [.stmt (.wr .n 3#64), .stmt .cmdRmtest, .wait, .stmt (.rd .wmin), .stmt (.rd .wmax), .witness 2#64]).map
      (fun x => (x.block.phase, x.block.WIT, x.block.replies.take 2)) =
        some (.xStart, 2#64, [(.wmax, 2#64), (.wmin, 2#64)]) := by decide

theorem test_script_witness_needs_a_wait :
    runScript 5 (block .rmDraw .rm (D := 1#64) (N := 3#64) (S := 1#64)).beginScript [.stmt (.rd .status), .witness 2#64] =
      none := by decide

end Sys2Proof.Tests
end

