-- ==== Sys2Proof/Tests/Witnesses.lean ====
section
/-! SUPPORT. For every obligation with hypotheses, a concrete state and operands that meet them, clause by clause, at
boundary values. -/

namespace Sys2Proof.Tests

open Sys2Proof.Machine

theorem witness_DecodedWordIsTheEncoding : decode (.command 2#64) = .ok .rmtest ∧ decode (.phaseCode 11#4) = .ok .rmVerdict := by
  decide

/-- Each of the three ways a transition selects an instruction. -/
theorem witness_StepRunsTheSelectedInstruction :
    ((block .xMul).pending = [] ∧ decode (.phaseCode (block .xMul).phase.code) = .ok .xMul) ∧
    ((withEvent (.hostWrite .cmd 1#64) .reset).pending = .hostWrite .cmd 1#64 :: [] ∧
      decode (.command 1#64) = .ok .expmod) ∧
    ((withEvent (.hostWrite .wit 0#64) (block .rmDraw .rm)).pending = .hostWrite .wit 0#64 :: [] ∧
      (block .rmDraw .rm).phase = .rmDraw) := by decide

/-- A state in `RM_DRAW` with `N = 3` (the smallest candidate) that meets the invariants. -/
def drawn : State := block .rmDraw .rm (D := 1#64) (N := 3#64) (S := 1#64)

theorem drawn_inv : drawn.Inv := by
  constructor <;> simp [drawn, block, State.reset, State.OddCandidate, State.Decomposed]

/-- A state in `RM_VERDICT` with `N = 3` and witness 2 that meets both invariants (vector M6). -/
def judged : State :=
  { block .rmVerdict .rm (A := 2#64) (D := 1#64) (N := 3#64) (R := 1#64) (LASTM := 2#64) (S := 1#64) (I := 1#64) with
    WIT := 2#64 }

theorem judged_inv : judged.Inv := by
  constructor <;> simp [judged, block, State.reset, State.OddCandidate, State.Decomposed]

theorem judged_residue : judged.ResidueInv := by
  constructor <;> simp [judged, block, State.reset]

/-- A state in `RM_FIRST` with `N = 7` and witness 1 that meets both invariants (vector M11). -/
def firstOne : State :=
  { block .rmFirst .rm (A := 1#64) (D := 3#64) (N := 7#64) (R := 1#64) (S := 1#64) with WIT := 1#64 }

theorem firstOne_inv : firstOne.Inv := by
  constructor <;> simp [firstOne, block, State.reset, State.OddCandidate, State.Decomposed]

theorem firstOne_residue : firstOne.ResidueInv := by
  constructor <;> simp [firstOne, block, State.reset]

/-- A state in `RM_SQ` about to overflow, and one in `X_MUL`, `X_START`, `RM_CHECK` and `DONE`, that meet the invariants. -/
def squareOverflow : State :=
  block .rmSq .rm (A := 2#64) (D := 1#64) (N := 4294967297#64) (R := 4294967296#64) (LASTM := 65536#64) (S := 32#64) (I := 5#64)

theorem squareOverflow_inv : squareOverflow.Inv := by
  constructor <;> simp [squareOverflow, block, State.reset, State.OddCandidate, State.Decomposed]

def productOverflow : State :=
  block .xMul .exp (A := 4294967296#64) (D := 2#64) (N := 4294967297#64) (R := 4294967296#64) (CNT := 1#64)

theorem productOverflow_inv : productOverflow.Inv := by
  constructor <;> simp [productOverflow, block, State.reset]

theorem zeroModulus_inv : (block .xStart).Inv := by
  constructor <;> simp [block, State.reset]

theorem candidateOne_inv : (block .rmCheck .rm (N := 1#64)).Inv := by
  constructor <;> simp [block, State.reset]

theorem illegalCommand_inv : (withEvent (.hostWrite .cmd 0#64) (block .done)).Inv := by
  constructor <;> simp [withEvent, block, State.reset]

theorem testStart_inv : (block .xStart .rm (A := 2#64) (D := 1#64) (N := 3#64) (S := 1#64)).Inv := by
  constructor <;> simp [block, State.reset, State.OddCandidate, State.Decomposed]

theorem witness_StatusWordFields :
    drawn.Inv ∧ (withEvent (.hostWrite .status 0#64) drawn).pending = .hostWrite .status 0#64 :: [] ∧
      (withEvent (.hostRead .status) drawn).pending = .hostRead .status :: [] := ⟨drawn_inv, by decide, by decide⟩

theorem witness_LevelOutputsFollowPhase :
    (after (block .rmVerdict)).map (fun t => decide ((block .rmVerdict).levels ≠ t.levels)) = some true := by decide

theorem witness_HostReadReturnsTheSlot :
    (withEvent (.hostRead .wmax) .reset).pending = .hostRead .wmax :: [] ∧
      (withEvent (.hostRead .reserved15) (block .fault)).pending = .hostRead .reserved15 :: [] := by decide

theorem witness_OperandWriteStores :
    ((withEvent (.hostWrite .a 5#64) .reset).phase = .idle ∧
      (withEvent (.hostWrite .a 5#64) .reset).pending = .hostWrite .a 5#64 :: []) ∧
    ((withEvent (.hostWrite .d 5#64) (block .done)).phase = .done ∧
      (withEvent (.hostWrite .d 5#64) (block .done)).pending = .hostWrite .d 5#64 :: []) ∧
    (withEvent (.hostWrite .n 5#64) .reset).pending = .hostWrite .n 5#64 :: [] := by decide

/-- Each of the three cases of a dropped write. -/
theorem witness_OtherHostWritesAreDropped :
    ((withEvent (.hostWrite .n 5#64) (block .xMul)).pending = .hostWrite .n 5#64 :: [] ∧ (block .xMul).phase ≠ .idle ∧
      (block .xMul).phase ≠ .done) ∧
    ((withEvent (.hostWrite .wit 5#64) .reset).pending = .hostWrite .wit 5#64 :: [] ∧ State.reset.phase ≠ .rmDraw) ∧
    (withEvent (.hostWrite .r 5#64) .reset).pending = .hostWrite .r 5#64 :: [] := by decide

theorem witness_OnlyOffSlotAccessesAreRefused :
    (withEvent .hostOffSlot .reset).pending = .hostOffSlot :: [] ∧ State.reset.pending ≠ .hostOffSlot :: [] := by decide

theorem witness_CommandAcceptance :
    (State.reset.phase = .idle ∧ (block .done).phase = .done) ∧
    (withEvent (.hostWrite .cmd 1#64) .reset).pending = .hostWrite .cmd 0x1#64 :: [] ∧
    (withEvent (.hostWrite .cmd 2#64) .reset).pending = .hostWrite .cmd 0x2#64 :: [] := by decide

theorem witness_IllegalCommandFaults :
    (block .done).phase = .done ∧ (0#64 : Word) ≠ 0x1#64 ∧ (0#64 : Word) ≠ 0x2#64 ∧
      (withEvent (.hostWrite .cmd 0#64) (block .done)).pending = .hostWrite .cmd 0#64 :: [] := by decide

theorem witness_CommandWhileBusyOrFaultedIsDropped :
    (block .fault).phase ≠ .idle ∧ (block .fault).phase ≠ .done ∧
      (withEvent (.hostWrite .cmd 1#64) (block .fault)).pending = .hostWrite .cmd 1#64 :: [] := by decide

theorem witness_XStartStep :
    ((block .xStart).phase = .xStart ∧ (block .xStart).N = 0#64) ∧
    ((block .xStart (N := 1#64)).N ≠ 0#64 ∧ (block .xStart (N := 1#64)).D = 0#64 ∧ (block .xStart (N := 1#64)).mode = .exp) ∧
    ((block .xStart .rm (N := 1#64)).D = 0#64 ∧ (block .xStart .rm (N := 1#64)).mode = .rm) ∧
    ((block .xStart (D := 1#64) (N := 1#64)).D ≠ 0#64) ∧
    ((block .xStart .rm (A := 2#64) (D := 1#64) (N := 3#64) (S := 1#64)).Inv) :=
  ⟨by decide, by decide, by decide, by decide, testStart_inv⟩

/-- `A = N` subtracts, `A = N - 1` leaves. -/
theorem witness_XRedaStepAndLoop :
    ((block .xReda (A := 5#64) (D := 1#64) (N := 5#64)).phase = .xReda ∧
      (block .xReda (A := 5#64) (D := 1#64) (N := 5#64)).N.toNat ≤ (block .xReda (A := 5#64) (D := 1#64) (N := 5#64)).A.toNat) ∧
    ((block .xReda (A := 4#64) (D := 1#64) (N := 5#64)).A.toNat < (block .xReda (A := 4#64) (D := 1#64) (N := 5#64)).N.toNat ∧
      1 ≤ (block .xReda (A := 4#64) (D := 1#64) (N := 5#64)).D.toNat) ∧
    (0 < (block .xReda (A := 17#64) (N := 5#64)).N.toNat ∧ (block .xReda (A := 17#64) (N := 5#64)).pending = []) := by decide

/-- The product `2^64` faults, the product below it does not. -/
theorem witness_XMulStep :
    ((block .xMul).CNT = 0#64 ∧ (block .xMul).mode = .exp) ∧ (block .xMul .rm).mode = .rm ∧
    ((productOverflow).CNT ≠ 0#64 ∧ 2 ^ 64 ≤ productOverflow.R.toNat * productOverflow.A.toNat) ∧
    ((block .xMul (A := 4294967295#64) (R := 4294967297#64) (CNT := 1#64)).CNT ≠ 0#64 ∧
      (block .xMul (A := 4294967295#64) (R := 4294967297#64) (CNT := 1#64)).R.toNat *
        (block .xMul (A := 4294967295#64) (R := 4294967297#64) (CNT := 1#64)).A.toNat < 2 ^ 64) := by decide

theorem witness_OverflowTestIsExact :
    mulExact 4294967296#64 4294967296#64 = none ∧ (1#64 : Word) ≠ 0#64 ∧ mulExact 3#64 5#64 = some 15#64 := by decide

theorem witness_XRedrStepAndLoop :
    ((block .xRedr (N := 5#64) (R := 5#64)).phase = .xRedr ∧
      (block .xRedr (N := 5#64) (R := 5#64)).N.toNat ≤ (block .xRedr (N := 5#64) (R := 5#64)).R.toNat) ∧
    ((block .xRedr (N := 5#64) (R := 4#64)).R.toNat < (block .xRedr (N := 5#64) (R := 4#64)).N.toNat) ∧
    (0 < (block .xRedr (N := 5#64) (R := 17#64)).N.toNat ∧ (block .xRedr (N := 5#64) (R := 17#64)).pending = []) := by decide

theorem witness_RmCheckStep :
    ((block .rmCheck .rm (N := 2#64)).phase = .rmCheck ∧ (block .rmCheck .rm (N := 2#64)).N = 2#64) ∧
    ((block .rmCheck .rm).N ≠ 2#64 ∧ (block .rmCheck .rm).N.toNat % 2 = 0) ∧
    (block .rmCheck .rm (N := 1#64)).N = 1#64 ∧
    ((block .rmCheck .rm (N := 3#64)).N.toNat % 2 = 1 ∧ 3 ≤ (block .rmCheck .rm (N := 3#64)).N.toNat) := by decide

theorem witness_RmDecompStep :
    ((block .rmDecomp .rm (D := 2#64) (N := 3#64)).phase = .rmDecomp ∧
      (block .rmDecomp .rm (D := 2#64) (N := 3#64)).D.toNat % 2 = 0 ∧
      (block .rmDecomp .rm (D := 2#64) (N := 3#64)).S.toNat + 1 < 2 ^ 64) ∧
    (block .rmDecomp .rm (D := 1#64) (N := 3#64) (S := 1#64)).D.toNat % 2 = 1 ∧
    (1 % 2 = 1 ∧ 1 * 2 ^ 63 = (block .rmDecomp .rm (D := 9223372036854775808#64)).D.toNat ∧
      (block .rmDecomp .rm (D := 9223372036854775808#64)).S.toNat + 63 < 2 ^ 64 ∧
      (block .rmDecomp .rm (D := 9223372036854775808#64)).pending = []) := by decide

theorem witness_RmDrawHolds :
    drawn.phase = .rmDraw ∧ drawn.Inv ∧ drawn.pending = [] ∧
      (after (withEvent (.hostWrite .wit 2#64) drawn)).map (fun t => t.phase) = some .xStart :=
  ⟨rfl, drawn_inv, rfl, by decide⟩

theorem witness_WitnessHandOver :
    ((withEvent (.hostWrite .wit 2#64) drawn).pending = .hostWrite .wit 2#64 :: [] ∧
      (withEvent (.hostWrite .wit 2#64) drawn).phase = .rmDraw) ∧
    (withEvent (.hostWrite .wit 2#64) .reset).phase ≠ .rmDraw := by decide

theorem witness_RmFirstStep :
    firstOne.phase = .rmFirst ∧ firstOne.R = 1#64 ∧ (block .rmFirst .rm).phase = .rmFirst ∧ (block .rmFirst .rm).R ≠ 1#64 := by
  decide

/-- `R = 2^32` faults, `R = 2^32 - 1` does not. -/
theorem witness_RmSqStep :
    ((block .rmSq .rm (S := 1#64) (I := 1#64)).phase = .rmSq ∧
      (block .rmSq .rm (S := 1#64) (I := 1#64)).I = (block .rmSq .rm (S := 1#64) (I := 1#64)).S) ∧
    (squareOverflow.I.toNat ≤ squareOverflow.S.toNat ∧ squareOverflow.I ≠ squareOverflow.S ∧
      2 ^ 64 ≤ squareOverflow.R.toNat * squareOverflow.R.toNat) ∧
    ((block .rmSq .rm (N := 4294967296#64) (R := 4294967295#64) (S := 1#64)).I ≠
        (block .rmSq .rm (N := 4294967296#64) (R := 4294967295#64) (S := 1#64)).S ∧
      (block .rmSq .rm (N := 4294967296#64) (R := 4294967295#64) (S := 1#64)).R.toNat *
        (block .rmSq .rm (N := 4294967296#64) (R := 4294967295#64) (S := 1#64)).R.toNat < 2 ^ 64 ∧
      (block .rmSq .rm (N := 4294967296#64) (R := 4294967295#64) (S := 1#64)).R.toNat <
        (block .rmSq .rm (N := 4294967296#64) (R := 4294967295#64) (S := 1#64)).N.toNat ∧
      (block .rmSq .rm (N := 4294967296#64) (R := 4294967295#64) (S := 1#64)).N.toNat ≤ 2 ^ 32) := by decide

theorem witness_RmSqredStepAndLoop :
    ((block .rmSqred .rm (N := 5#64) (R := 5#64)).phase = .rmSqred ∧
      (block .rmSqred .rm (N := 5#64) (R := 5#64)).N.toNat ≤ (block .rmSqred .rm (N := 5#64) (R := 5#64)).R.toNat) ∧
    ((block .rmSqred .rm (N := 5#64) (R := 1#64)).R.toNat < (block .rmSqred .rm (N := 5#64) (R := 1#64)).N.toNat ∧
      (block .rmSqred .rm (N := 5#64) (R := 1#64)).R = 1#64) ∧
    ((block .rmSqred .rm (N := 5#64) (R := 4#64)).R.toNat < (block .rmSqred .rm (N := 5#64) (R := 4#64)).N.toNat ∧
      (block .rmSqred .rm (N := 5#64) (R := 4#64)).R ≠ 1#64) ∧
    (0 < (block .rmSqred .rm (N := 5#64) (R := 16#64)).N.toNat ∧ (block .rmSqred .rm (N := 5#64) (R := 16#64)).pending = []) := by
  decide

theorem witness_RmVerdictStep :
    (judged.phase = .rmVerdict ∧ 3 ≤ judged.N.toNat ∧ judged.R.toNat = 1 ∧ judged.LASTM.toNat = judged.N.toNat - 1) ∧
    (3 ≤ (block .rmVerdict .rm (N := 3#64)).N.toNat ∧
      ¬ ((block .rmVerdict .rm (N := 3#64)).R.toNat = 1 ∧
        (block .rmVerdict .rm (N := 3#64)).LASTM.toNat = (block .rmVerdict .rm (N := 3#64)).N.toNat - 1)) := by decide

theorem witness_FaultEntryChangesThreeFields :
    productOverflow.phase ≠ .fault ∧ (after productOverflow).map (fun t => t.phase) = some .fault := by decide

/-- Each of the five causes. -/
theorem witness_FaultCauses :
    ((block .xStart).Inv ∧ (after (block .xStart)).map (fun t => t.phase) = some .fault) ∧
    (productOverflow.Inv ∧ (after productOverflow).map (fun t => t.phase) = some .fault) ∧
    (squareOverflow.Inv ∧ (after squareOverflow).map (fun t => t.phase) = some .fault) ∧
    ((block .rmCheck .rm (N := 1#64)).Inv ∧ (after (block .rmCheck .rm (N := 1#64))).map (fun t => t.phase) = some .fault) ∧
    ((withEvent (.hostWrite .cmd 0#64) (block .done)).Inv ∧
      (after (withEvent (.hostWrite .cmd 0#64) (block .done))).map (fun t => t.phase) = some .fault) :=
  ⟨⟨zeroModulus_inv, by decide⟩, ⟨productOverflow_inv, by decide⟩, ⟨squareOverflow_inv, by decide⟩,
    ⟨candidateOne_inv, by decide⟩, illegalCommand_inv, by decide⟩

theorem witness_OnlyResetLeavesFault :
    (block .fault).phase = .fault ∧ (after (withEvent (.hostWrite .a 7#64) (block .fault))).isSome = true ∧
      (after (withEvent (.hostRead .r) (block .fault))).isSome = true ∧ (after (block .fault)).isSome = true ∧
      (after (withEvent .reset (block .fault))).isSome = true := by decide

theorem witness_ResetStartsNothing :
    (State.reset.phase = .idle ∧ State.reset.pending = []) ∧
    ((withEvent .sequencer (block .done)).phase = .done ∧ (withEvent .sequencer (block .done)).pending = [.sequencer]) ∧
    (after (withEvent (.hostWrite .cmd 0#64) .reset)).map (fun t => t.phase) = some .fault ∧
    (after (withEvent .reset (block .done))).map (fun t => t.phase) = some .idle := by decide

/-- Each of the four writers of `phase`; the command write with each of its three results. -/
theorem witness_PhaseWriters :
    (after (block .rmVerdict)).map (fun t => t.phase) = some .done ∧
    (after (withEvent (.hostWrite .cmd 1#64) .reset)).map (fun t => t.phase) = some .xStart ∧
    (after (withEvent (.hostWrite .cmd 2#64) (block .done))).map (fun t => t.phase) = some .rmCheck ∧
    (after (withEvent (.hostWrite .cmd 3#64) (block .done))).map (fun t => t.phase) = some .fault ∧
    (after (withEvent (.hostWrite .wit 2#64) drawn)).map (fun t => t.phase) = some .xStart ∧
    (after (withEvent .reset (block .xMul))).map (fun t => t.phase) = some .idle := by decide

theorem witness_ResetFromAnyState : (withEvent .reset (block .xMul)).pending = .reset :: [] := by decide

/-- The step a witness of an `exec i s = .next t` hypothesis takes: every instruction has one. -/
theorem witness_RegisterWriters : exec .rmSq squareOverflow = .next (squareOverflow.raiseFault .overflow) ∧
    exec .rmDraw (withEvent (.hostWrite .wit 2#64) drawn) = .next ((withEvent (.hostWrite .wit 2#64) drawn).handOver 2#64) :=
  ⟨rfl, rfl⟩

/-- Each of the four registers a host write can change. -/
theorem witness_HostWritesOperandsOnly :
    (after (withEvent (.hostWrite .a 5#64) .reset)).map (fun t => t.A) = some 5#64 ∧
    (after (withEvent (.hostWrite .d 5#64) (block .done))).map (fun t => t.D) = some 5#64 ∧
    (after (withEvent (.hostWrite .n 5#64) .reset)).map (fun t => t.N) = some 5#64 ∧
    (after (withEvent (.hostWrite .wit 2#64) drawn)).map (fun t => (t.A, t.WIT)) = some (2#64, 2#64) ∧
    (after (withEvent (.hostWrite .a 5#64) drawn)).map (fun t => t.A) = some 0#64 := by decide

theorem witness_HostCannotDisturbCommand :
    (block .xMul).phase ∉ [Phase.idle, .done, .fault] ∧
      (after (withEvent (.hostRead .r) (block .xMul))).isSome = true ∧
      (after (withEvent (.hostWrite .cmd 1#64) (block .xMul))).isSome = true ∧
      (withEvent (.hostWrite .cmd 1#64) (block .xMul)).pending ≠ .reset :: [] := by decide

theorem witness_StickyFields :
    ({ block .done with werr := true } : State).werr = true ∧ (after { block .done with werr := true }).isSome = true ∧
      (after productOverflow).map (fun t => decide (productOverflow.err ≠ t.err)) = some true := by decide

theorem witness_StepKeepsInvariants : drawn.Inv ∧ (after drawn).isSome = true := ⟨drawn_inv, by decide⟩

theorem witness_StepKeepsResidue : judged.Inv ∧ judged.ResidueInv ∧ (after judged).isSome = true :=
  ⟨judged_inv, judged_residue, by decide⟩

theorem witness_VerdictStepIsStrongProbablePrime :
    (judged.Inv ∧ judged.ResidueInv ∧ judged.pending = [] ∧ (after judged).map (fun t => t.phase) = some .done) ∧
    (firstOne.Inv ∧ firstOne.ResidueInv ∧ firstOne.pending = [] ∧ (after firstOne).map (fun t => t.phase) = some .done) :=
  ⟨⟨judged_inv, judged_residue, rfl, by decide⟩, firstOne_inv, firstOne_residue, rfl, by decide⟩

theorem witness_ModExpIsThePower : modExp 7 3 5 = .ok 3 := by decide

theorem witness_ModExpBelowBoundNeverOverflows : 0 < 2 ^ 32 ∧ 2 ^ 32 ≤ 2 ^ 32 := by decide

theorem witness_ModExpOverflowCondition :
    (0 < 4294967297 ∧ 2 ≤ 2 ∧ modExp 4294967296 2 4294967297 = .error .overflow) ∧
    (0 < 18446744073709551615 ∧ 18446744073709551615 < 2 ^ 64 ∧ 1 % 18446744073709551615 ≤ 1) := by decide

/-- The start state of an accepted `EXPMOD`. -/
def commanded (v : Word) (A D N : Word) : State := withEvent (.hostWrite .cmd v) (block .done (A := A) (D := D) (N := N))

theorem witness_ExpmodRunsToItsResult :
    (commanded 1#64 10#64 0#64 7#64).phase = .done ∧ (commanded 1#64 10#64 0#64 7#64).pending = [.hostWrite .cmd 0x1#64] ∧
      modExp (commanded 1#64 10#64 0#64 7#64).A.toNat (commanded 1#64 10#64 0#64 7#64).D.toNat
        (commanded 1#64 10#64 0#64 7#64).N.toNat = .ok 1 ∧
      modExp (commanded 1#64 7#64 1#64 5#64).A.toNat (commanded 1#64 7#64 1#64 5#64).D.toNat
        (commanded 1#64 7#64 1#64 5#64).N.toNat = .ok 2 := by decide

theorem witness_ExpmodRunsToItsFault :
    ((commanded 1#64 5#64 0#64 0#64).N = 0#64 ∧ (commanded 1#64 5#64 0#64 0#64).pending = [.hostWrite .cmd 0x1#64]) ∧
    ((commanded 1#64 4294967296#64 2#64 4294967297#64).N ≠ 0#64 ∧ 1 ≤ 1 ∧
      1 < (commanded 1#64 4294967296#64 2#64 4294967297#64).D.toNat ∧
      2 ^ 64 ≤ (4294967296 % 4294967297) ^ 1 % 4294967297 * (4294967296 % 4294967297)) ∧
    (∀ j, 1 ≤ j → j < 1 → (4294967296 % 4294967297) ^ j % 4294967297 * (4294967296 % 4294967297) < 2 ^ 64) :=
  ⟨by decide, by decide, fun _ h h' => absurd h' (Nat.not_lt.2 h)⟩

theorem witness_ExpmodViewsAgree :
    (commanded 1#64 5#64 0#64 0#64).phase = .done ∧ (commanded 1#64 5#64 0#64 0#64).pending = [.hostWrite .cmd 0x1#64] := by
  decide

theorem witness_DecompositionLaw : 9223372036854775809 % 2 = 1 ∧ 3 ≤ 9223372036854775809 ∧ 9223372036854775809 < 2 ^ 64 ∧
    1 % 2 = 1 ∧ 1 * 2 ^ 63 = 9223372036854775809 - 1 := by decide

theorem witness_RmtestWithoutDraw :
    ((commanded 2#64 0#64 0#64 2#64).phase = .done ∧ (commanded 2#64 0#64 0#64 2#64).pending = [.hostWrite .cmd 0x2#64] ∧
      (commanded 2#64 0#64 0#64 2#64).N.toNat % 2 = 0) ∧
    (commanded 2#64 0#64 0#64 1#64).N = 1#64 := by decide

theorem witness_RmtestReachesTheDraw :
    (commanded 2#64 0#64 0#64 3#64).phase = .done ∧ (commanded 2#64 0#64 0#64 3#64).pending = [.hostWrite .cmd 0x2#64] ∧
      (commanded 2#64 0#64 0#64 3#64).OddCandidate ∧ 1 % 2 = 1 ∧
      1 * 2 ^ 1 = (commanded 2#64 0#64 0#64 3#64).N.toNat - 1 := by
  unfold State.OddCandidate; decide

/-- The witness 2, with `2^1 mod 3 ≠ 1`, and the witness 1, with `1^1 mod 3 = 1`. -/
theorem witness_RmtestRunsToItsVerdict :
    drawn.phase = .rmDraw ∧ drawn.mode = .rm ∧ drawn.OddCandidate ∧ drawn.Decomposed ∧
      ((withEvent (.hostWrite .wit 2#64) drawn).pending = [.hostWrite .wit 2#64] ∧ rmTest drawn.N.toNat 2 = .ok true ∧
        2 ^ drawn.D.toNat % drawn.N.toNat ≠ 1) ∧
      ((withEvent (.hostWrite .wit 1#64) drawn).pending = [.hostWrite .wit 1#64] ∧ rmTest drawn.N.toNat 1 = .ok true ∧
        1 ^ drawn.D.toNat % drawn.N.toNat = 1) := by
  unfold State.OddCandidate State.Decomposed; decide

theorem witness_RmtestRunsToItsFault :
    (block .rmDraw .rm (D := 1#64) (N := 4294967297#64) (S := 32#64)).OddCandidate ∧
      (block .rmDraw .rm (D := 1#64) (N := 4294967297#64) (S := 32#64)).Decomposed ∧
      rmTest 4294967297 2 = .error .overflow := by
  unfold State.OddCandidate State.Decomposed; decide

theorem witness_VerdictMeaning : 9 % 2 = 1 ∧ 3 ≤ 9 ∧ 9 < 2 ^ 64 ∧ 1 % 2 = 1 ∧ 1 * 2 ^ 3 = 9 - 1 ∧ rmTest 9 2 = .ok false ∧
    rmTest 9 8 = .ok true := by decide

theorem witness_LargestWitnessAlwaysPasses : 15 % 2 = 1 ∧ 3 ≤ 15 ∧ 15 < 2 ^ 64 ∧ rmTest 15 (15 - 1) = .ok true := by decide

theorem witness_OutOfRangeWitnesses : 3 % 2 = 1 ∧ 3 ≤ 3 ∧ 3 < 2 ^ 64 := by decide

theorem witness_RmtestBelowBoundNeverFaults : (0 : Nat) ≠ 1 ∧ 0 ≤ 2 ^ 32 ∧ 2 ^ 32 ≠ 1 := by decide

theorem witness_PrimesAlwaysPass : Nat.Prime 3 ∧ 3 ≤ 2 ^ 32 ∧ 2 ≤ 2 ∧ 2 ≤ 3 - 1 := ⟨Nat.prime_three, by decide, by decide, by decide⟩

/-- A `WAIT` that ends in the hold, and one that ends in `IDLE`. -/
theorem witness_WitnessIsLegalAfterItsWait :
    (runLine 1 drawn.beginScript .wait).map (fun y => y.block.statusWord[3]) = some true ∧
    (runLine 1 State.reset.beginScript .wait).map (fun y => y.block.statusWord[3]) = some false := by decide

end Sys2Proof.Tests
end

section
/-! SUPPORT. What a transition does, agent by agent (R52): the case split that proofs about `step` make. -/

namespace Sys2Proof.Machine

/-- What a host write makes of the state, before the schedule moves on (R45 to R49, R62 to R64, R117). -/
inductive HostWrite (s : State) : Slot → Word → State → Prop
  | operandA (v : Word) (ha : s.phase.accepts = true) : HostWrite s .a v { s with A := v }
  | operandD (v : Word) (ha : s.phase.accepts = true) : HostWrite s .d v { s with D := v }
  | operandN (v : Word) (ha : s.phase.accepts = true) : HostWrite s .n v { s with N := v }
  | expmod (ha : s.phase.accepts = true) :
      HostWrite s .cmd 1#64 { s with verdict := false, mode := .exp, phase := .xStart }
  | rmtest (ha : s.phase.accepts = true) :
      HostWrite s .cmd 2#64 { s with verdict := false, mode := .rm, phase := .rmCheck }
  | illegal (v : Word) (ha : s.phase.accepts = true) (h1 : v ≠ 1#64) (h2 : v ≠ 2#64) :
      HostWrite s .cmd v (s.raiseFault .cmd)
  | witness (w : Word) (hp : s.phase = .rmDraw) : HostWrite s .wit w (s.handOver w)
  | dropped (slot : Slot) (v : Word) : HostWrite s slot v s.dropWrite

/-- What a transition makes of the state, before the schedule moves on. -/
inductive Transition (s : State) : State → Prop
  | idleTurn (he : s.event = .sequencer)
      (hp : s.phase = .idle ∨ s.phase = .rmDraw ∨ s.phase = .done ∨ s.phase = .fault) : Transition s s
  | microStep {i : Instr} {u : State} (he : s.event = .sequencer) (hf : s.fetch = some i) (hi : i ≠ .rmDraw)
      (hu : exec i s = .next u) : Transition s u
  | hostRead (slot : Slot) (he : s.event = .hostRead slot) : Transition s (s.answerRead slot)
  | hostWrite {slot : Slot} {v : Word} {u : State} (he : s.event = .hostWrite slot v) (hw : HostWrite s slot v u) :
      Transition s u
  | reset (he : s.event = .reset) : Transition s s.applyReset

/-! ### Each host write of `step` is one of the effects above -/

theorem hostWrite_expmod (s : State) : HostWrite s .cmd 1#64 (s.giveCommand .exp .xStart) := by
  cases ha : s.phase.accepts with
  | true => rw [State.giveCommand_accepted ha]; exact .expmod ha
  | false => rw [State.giveCommand_refused ha]; exact .dropped _ _

theorem hostWrite_rmtest (s : State) : HostWrite s .cmd 2#64 (s.giveCommand .rm .rmCheck) := by
  cases ha : s.phase.accepts with
  | true => rw [State.giveCommand_accepted ha]; exact .rmtest ha
  | false => rw [State.giveCommand_refused ha]; exact .dropped _ _

theorem hostWrite_illegal (s : State) {v : Word} (h1 : v ≠ 1#64) (h2 : v ≠ 2#64) :
    HostWrite s .cmd v s.giveIllegalCommand := by
  cases ha : s.phase.accepts with
  | true => rw [State.giveIllegalCommand_accepted ha]; exact .illegal v ha h1 h2
  | false => rw [State.giveIllegalCommand_refused ha]; exact .dropped _ _

theorem hostWrite_writeSlot (s : State) {slot : Slot} (v : Word) (hc : slot ≠ .cmd) :
    HostWrite s slot v (s.writeSlot slot v) := by
  obtain ⟨ha, rfl, e⟩ | ⟨ha, rfl, e⟩ | ⟨ha, rfl, e⟩ | ⟨-, hcmd, -⟩ | e := s.writeSlot_cases slot v
  · rw [e]; exact .operandA v ha
  · rw [e]; exact .operandD v ha
  · rw [e]; exact .operandN v ha
  · exact absurd hcmd hc
  · rw [e]; exact .dropped slot v

/-- A step with a next state is a transition of one agent, and moves the schedule on. -/
theorem transition_of_step {s t : State} (h : step s = .next t) : ∃ u, Transition s u ∧ t = u.advance := by
  obtain ⟨he, hp, e⟩ | ⟨he, i, u, hf, hi, hu, e⟩ | ⟨slot, he, e⟩ | ⟨he, e⟩ | ⟨he, e⟩ | ⟨v, h1, h2, he, e⟩ |
    ⟨w, he, hp, e⟩ | ⟨slot, v, he, hc, -, e⟩ | ⟨he, e⟩ := step_cases h
  · exact ⟨_, .idleTurn he hp, e⟩
  · exact ⟨u, .microStep he hf hi hu, e⟩
  · exact ⟨_, .hostRead slot he, e⟩
  · exact ⟨_, .hostWrite he (hostWrite_expmod s), e⟩
  · exact ⟨_, .hostWrite he (hostWrite_rmtest s), e⟩
  · exact ⟨_, .hostWrite he (hostWrite_illegal s h1 h2), e⟩
  · exact ⟨_, .hostWrite he (.witness w hp), e⟩
  · exact ⟨_, .hostWrite he (hostWrite_writeSlot s v hc), e⟩
  · exact ⟨_, .reset he, e⟩

/-- A pending host write is the event of the step. -/
theorem hostWrite_of_step {s t : State} {slot : Slot} {v : Word} (he : s.event = .hostWrite slot v)
    (h : step s = .next t) : ∃ u, HostWrite s slot v u ∧ t = u.advance := by
  obtain ⟨u, hu, e⟩ := transition_of_step h
  cases hu with
  | hostWrite he' hw => cases he.symm.trans he'; exact ⟨u, hw, e⟩
  | idleTurn he' _ => cases he.symm.trans he'
  | microStep he' _ _ _ => cases he.symm.trans he'
  | hostRead _ he' => cases he.symm.trans he'
  | reset he' => cases he.symm.trans he'

/-- The sequencer has a micro-step outside `IDLE`, `DONE`, `FAULT` and the hold only (R6, R65). -/
theorem State.phase_of_fetch {s : State} {i : Instr} (he : s.event = .sequencer) (hf : s.fetch = some i)
    (hi : i ≠ .rmDraw) : s.phase ∉ [.idle, .rmDraw, .done, .fault] := by
  rw [State.fetch_sequencer he] at hf
  cases hp : s.phase <;> simp_all

/-- A legal command word is accepted or dropped (R62, R64). -/
theorem State.giveCommand_cases (s : State) (m : Mode) (p : Phase) :
    s.giveCommand m p = { s with verdict := false, mode := m, phase := p } ∨ s.giveCommand m p = s.dropWrite := by
  cases ha : s.phase.accepts with
  | true => exact .inl (State.giveCommand_accepted ha m p)
  | false => exact .inr (State.giveCommand_refused ha m p)

theorem State.phase_ne_fault_of_accepts {s : State} (ha : s.phase.accepts = true) : s.phase ≠ .fault := by
  intro hp; rw [hp] at ha; cases ha

end Sys2Proof.Machine
end

section
/-! SUPPORT. What `STATUS` and the level outputs show (R27, R30). -/

namespace Sys2Proof.Machine

/-- Bit `i` of `STATUS`, field by field from bit 0 up (R27). -/
theorem State.statusWord_getLsbD (s : State) (i : Nat) :
    s.statusWord.getLsbD i =
      if i < 1 then (BitVec.ofBool s.busy).getLsbD i
      else if i - 1 < 1 then (BitVec.ofBool s.done).getLsbD (i - 1)
      else if i - 2 < 1 then (BitVec.ofBool s.fault).getLsbD (i - 2)
      else if i - 3 < 1 then (BitVec.ofBool s.wreq).getLsbD (i - 3)
      else if i - 4 < 1 then (BitVec.ofBool s.mode.bit).getLsbD (i - 4)
      else if i - 5 < 1 then (BitVec.ofBool s.verdict).getLsbD (i - 5)
      else if i - 6 < 1 then (BitVec.ofBool s.werr).getLsbD (i - 6)
      else if i - 7 < 1 then (0#1).getLsbD (i - 7)
      else if i - 8 < 4 then s.err.code.getLsbD (i - 8)
      else if i - 12 < 4 then s.phase.code.getLsbD (i - 12)
      else if i - 16 < 4 then s.fphase.code.getLsbD (i - 16)
      else (0#44).getLsbD (i - 20) := by
  refine (BitVec.getLsbD_append (n := 44 + 4 + 4 + 4 + 1 + 1 + 1 + 1 + 1 + 1 + 1) (m := 1)).trans ?_
  simp only [BitVec.getLsbD_append, Nat.sub_sub]

/-- The one-bit fields of `STATUS` (R27). -/
theorem State.statusWord_bits (s : State) :
    s.statusWord[0] = s.busy ∧ s.statusWord[1] = s.done ∧ s.statusWord[2] = s.fault ∧ s.statusWord[3] = s.wreq ∧
    s.statusWord[4] = s.mode.bit ∧ s.statusWord[5] = s.verdict ∧ s.statusWord[6] = s.werr ∧ s.statusWord[7] = false := by
  simp [← BitVec.getLsbD_eq_getElem, s.statusWord_getLsbD]

/-- The wider fields of `STATUS` (R27). -/
theorem State.statusWord_fields (s : State) :
    s.statusWord.extractLsb' 8 4 = s.err.code ∧ s.statusWord.extractLsb' 12 4 = s.phase.code ∧
    s.statusWord.extractLsb' 16 4 = s.fphase.code ∧ s.statusWord.extractLsb' 20 44 = 0#44 := by
  refine ⟨?_, ?_, ?_, ?_⟩ <;> ext i hi <;>
    simp (disch := omega) only [BitVec.getElem_extractLsb', s.statusWord_getLsbD, if_neg, if_pos,
      Nat.add_sub_cancel_left, BitVec.getLsbD_eq_getElem]

/-! ### The flags, by phase -/

theorem Phase.busy_iff {p : Phase} : p.busy = true ↔ p ∉ [.idle, .done, .fault] := by cases p <;> simp [Phase.busy]

theorem State.busy_iff {s : State} : s.busy = true ↔ s.phase ∉ [.idle, .done, .fault] := Phase.busy_iff

theorem State.done_iff {s : State} : s.done = true ↔ s.phase = .done := beq_iff_eq

theorem State.fault_iff {s : State} : s.fault = true ↔ s.phase = .fault := beq_iff_eq

theorem State.wreq_iff {s : State} : s.wreq = true ↔ s.phase = .rmDraw := beq_iff_eq

theorem Mode.bit_iff {m : Mode} : m.bit = true ↔ m = .rm := by cases m <;> simp [Mode.bit]

theorem ErrCode.code_eq_zero_iff {c : ErrCode} : c.code = 0#4 ↔ c = .none := by cases c <;> simp [ErrCode.code]

/-- Exactly one of `BUSY`, `DONE`, `FAULT` is 1, or none is, in `IDLE` (R27). -/
theorem State.busy_done_fault_exclusive (s : State) :
    (s.busy.toNat + s.done.toNat + s.fault.toNat = 1 ∧ s.phase ≠ .idle) ∨
      (s.busy.toNat + s.done.toNat + s.fault.toNat = 0 ∧ s.phase = .idle) := by
  unfold State.busy State.done State.fault
  cases s.phase <;> decide

/-- The level outputs are the status flags (R30). -/
theorem State.levels_eq (s : State) : s.levels = ⟨s.busy, s.done, s.fault, s.wreq⟩ := by
  obtain ⟨h0, h1, h2, h3, -⟩ := s.statusWord_bits
  rw [← h0, ← h1, ← h2, ← h3]; rfl

end Sys2Proof.Machine
end

section
/-! SUPPORT. The invariants of R34, read off by phase, and that every transition keeps them. -/

namespace Sys2Proof.Machine

/-- In the phases of the exponentiator an `RMTEST` has its candidate and its decomposition (R34 item 5). -/
def State.TestOperands (s : State) : Prop := s.mode = .rm → s.OddCandidate ∧ s.Decomposed

/-- A decomposition has an odd, hence nonzero, `D`. -/
theorem State.Decomposed.D_ne_zero {s : State} (h : s.Decomposed) : s.D ≠ 0#64 := by
  obtain ⟨hodd, -⟩ := h
  intro h0; simp [h0] at hodd

/-- What `State.Inv` says of the operands, read off by phase (R34 items 1 to 6). -/
def State.OperandInv (s : State) : Prop :=
  match s.phase with
  | .idle | .done | .fault => True
  | .xStart => s.TestOperands
  | .xReda => s.TestOperands ∧ 0 < s.N.toNat ∧ 1 ≤ s.D.toNat
  | .xMul => s.TestOperands ∧ 0 < s.N.toNat ∧ 1 ≤ s.D.toNat ∧ s.A.toNat < s.N.toNat ∧ s.R.toNat < s.N.toNat
  | .xRedr => s.TestOperands ∧ 0 < s.N.toNat ∧ 1 ≤ s.D.toNat ∧ s.A.toNat < s.N.toNat
  | .rmCheck => s.mode = .rm
  | .rmDecomp =>
    s.mode = .rm ∧ s.OddCandidate ∧ s.D.toNat * 2 ^ s.S.toNat = s.N.toNat - 1 ∧ (s.S.toNat = 0 → s.D.toNat % 2 = 0)
  | .rmDraw => s.mode = .rm ∧ s.OddCandidate ∧ s.Decomposed
  | .rmFirst => s.mode = .rm ∧ s.OddCandidate ∧ s.Decomposed ∧ s.R.toNat < s.N.toNat
  | .rmSq => s.mode = .rm ∧ s.OddCandidate ∧ s.Decomposed ∧ s.I.toNat ≤ s.S.toNat ∧ s.R.toNat < s.N.toNat
  | .rmSqred => s.mode = .rm ∧ s.OddCandidate ∧ s.Decomposed ∧ s.I.toNat ≤ s.S.toNat ∧ 1 ≤ s.I.toNat
  | .rmVerdict =>
    s.mode = .rm ∧ s.OddCandidate ∧ s.Decomposed ∧ s.I.toNat ≤ s.S.toNat ∧ 1 ≤ s.I.toNat ∧ s.R.toNat < s.N.toNat

/-- What `State.Inv` says of the fault fields (R34 item 7). -/
structure State.FaultInv (s : State) : Prop where
  faulted : s.phase = .fault ↔ s.err ≠ .none
  unfaulted : s.err = .none → s.fphase = .idle
  faultPhase : s.fphase ∈ [.idle, .xStart, .xMul, .rmCheck, .rmSq, .done]

theorem State.operandInv_of_inv {s : State} (h : s.Inv) : s.OperandInv := by
  unfold State.OperandInv
  cases hp : s.phase
  case idle | done | fault => trivial
  case xStart => exact fun hm => h.testing hm (by simp [hp])
  case xReda => exact ⟨fun hm => h.testing hm (by simp [hp]), h.reduction (by simp [hp])⟩
  case xMul =>
    obtain ⟨hN, hD⟩ := h.reduction (by simp [hp])
    exact ⟨fun hm => h.testing hm (by simp [hp]), hN, hD, h.multiply hp⟩
  case xRedr =>
    obtain ⟨hN, hD⟩ := h.reduction (by simp [hp])
    exact ⟨fun hm => h.testing hm (by simp [hp]), hN, hD, h.reducedBase hp⟩
  case rmCheck => exact h.rmMode (by simp [hp])
  case rmDecomp =>
    have hm := h.rmMode (by simp [hp])
    obtain ⟨hodd, hprod⟩ := h.decomposing hm (by simp [hp])
    exact ⟨hm, hodd, hprod, h.decompStart hp⟩
  case rmDraw =>
    have hm := h.rmMode (by simp [hp])
    exact ⟨hm, (h.decomposing hm (by simp [hp])).1, h.drawn hp⟩
  all_goals
    have hm := h.rmMode (by simp [hp])
    obtain ⟨hodd, hdec⟩ := h.testing hm (by simp [hp])
  case rmFirst => exact ⟨hm, hodd, hdec, h.firstResidue (by simp [hp])⟩
  case rmSq => exact ⟨hm, hodd, hdec, h.squarings (by simp [hp]), h.square hp⟩
  case rmSqred => exact ⟨hm, hodd, hdec, h.squarings (by simp [hp]), h.squared (by simp [hp])⟩
  case rmVerdict =>
    exact ⟨hm, hodd, hdec, h.squarings (by simp [hp]), h.squared (by simp [hp]), h.firstResidue (by simp [hp])⟩

/-- The candidate and its decomposition, at every phase from the draw on. -/
theorem State.OperandInv.test {s : State} (h : s.OperandInv) (hm : s.mode = .rm)
    (hp : s.phase ∈ [.rmDraw, .xStart, .xReda, .xMul, .xRedr, .rmFirst, .rmSq, .rmSqred, .rmVerdict]) :
    s.OddCandidate ∧ s.Decomposed := by
  cases hq : s.phase <;> simp only [State.OperandInv, hq] at h <;> simp [hq] at hp
  case xStart => exact h hm
  case xReda | xMul | xRedr =>
    obtain ⟨htest, -⟩ := h
    exact htest hm
  case rmDraw =>
    obtain ⟨-, hodd, hdec⟩ := h
    exact ⟨hodd, hdec⟩
  case rmFirst | rmSq | rmSqred | rmVerdict =>
    obtain ⟨-, hodd, hdec, -⟩ := h
    exact ⟨hodd, hdec⟩

theorem State.inv_of_operandInv {s : State} (hf : s.FaultInv) (h : s.OperandInv) : s.Inv where
  faulted := hf.faulted
  unfaulted := hf.unfaulted
  faultPhase := hf.faultPhase
  testing hm hp := h.test hm (List.mem_cons_of_mem _ hp)
  drawn hp := by simp only [State.OperandInv, hp] at h; simp [h]
  multiply hp := by simp only [State.OperandInv, hp] at h; simp [h]
  reducedBase hp := by simp only [State.OperandInv, hp] at h; simp [h]
  square hp := by simp only [State.OperandInv, hp] at h; simp [h]
  decompStart hp := by
    simp only [State.OperandInv, hp] at h
    obtain ⟨-, -, -, hstart⟩ := h
    exact hstart
  reduction hp := by cases hq : s.phase <;> simp [State.OperandInv, hq] at h hp <;> simp [h]
  squarings hp := by cases hq : s.phase <;> simp [State.OperandInv, hq] at h hp <;> simp [h]
  squared hp := by cases hq : s.phase <;> simp [State.OperandInv, hq] at h hp <;> simp [h]
  rmMode hp := by cases hq : s.phase <;> simp [State.OperandInv, hq] at h hp <;> simp [h]
  firstResidue hp := by cases hq : s.phase <;> simp [State.OperandInv, hq] at h hp <;> simp [h]
  decomposing hm hp := by
    cases hq : s.phase <;> simp [State.OperandInv, hq] at h hp
    case rmDecomp =>
      obtain ⟨-, hodd, hprod, -⟩ := h
      exact ⟨hodd, hprod⟩
    case rmDraw =>
      obtain ⟨-, hodd, -, hprod, -⟩ := h
      exact ⟨hodd, hprod⟩

/-- `State.Inv` is its fault clauses and its operand clauses. -/
theorem State.inv_iff {s : State} : s.Inv ↔ s.FaultInv ∧ s.OperandInv :=
  ⟨fun h => ⟨⟨h.faulted, h.unfaulted, h.faultPhase⟩, State.operandInv_of_inv h⟩,
    fun ⟨hf, h⟩ => State.inv_of_operandInv hf h⟩

/-! ### The fault fields -/

theorem State.FaultInv.of_unfaulted {s u : State} (h : s.FaultInv) (hs : s.phase ≠ .fault) (hu : u.phase ≠ .fault)
    (he : u.err = s.err) (hf : u.fphase = s.fphase) : u.FaultInv :=
  ⟨by rw [he, ← h.faulted]; simp [hs, hu], by rw [he, hf]; exact h.unfaulted, by rw [hf]; exact h.faultPhase⟩

theorem State.FaultInv.raiseFault {s : State} {c : ErrCode} (hc : c ≠ .none)
    (hs : s.phase ∈ [.idle, .xStart, .xMul, .rmCheck, .rmSq, .done]) : (s.raiseFault c).FaultInv :=
  ⟨by simp [hc], fun e => absurd e hc, hs⟩

theorem State.FaultInv.microStep {s u : State} {i : Instr} (h : s.FaultInv) (he : s.event = .sequencer)
    (hf : s.fetch = some i) (hi : i ≠ .rmDraw) (hu : exec i s = .next u) : u.FaultInv := by
  have hp := State.phase_of_fetch he hf hi
  obtain ⟨_, _, _, _, _, _, _, _, _, rfl, hnf⟩ | ⟨c, rfl, hc, hcause⟩ := microStep_cases he hf hu
  · exact h.of_unfaulted (fun e => by simp [e] at hp) hnf rfl rfl
  · refine .raiseFault hc ?_
    obtain ⟨-, hq, -⟩ | ⟨-, hq, -⟩ | ⟨-, hq, -⟩ | ⟨-, hq, -⟩ := hcause <;> simp [hq]

theorem State.FaultInv.hostWrite {s u : State} {slot : Slot} {v : Word} (h : s.FaultInv) (hw : HostWrite s slot v u) :
    u.FaultInv := by
  cases hw with
  | operandA | operandD | operandN | dropped => exact ⟨h.faulted, h.unfaulted, h.faultPhase⟩
  | expmod ha | rmtest ha => exact h.of_unfaulted (State.phase_ne_fault_of_accepts ha) (by simp) rfl rfl
  | illegal v ha => exact .raiseFault (by simp) (by obtain hp | hp := Phase.accepts_iff.1 ha <;> simp [hp])
  | witness w hp => exact h.of_unfaulted (by simp [hp]) (by simp) rfl rfl

/-! ### The operands, micro-step by micro-step -/

theorem execXStart_operandInv {s u : State} (hp : s.phase = .xStart) (h : s.OperandInv) (hu : execXStart s = .next u) :
    u.OperandInv := by
  simp only [State.OperandInv, hp] at h
  obtain ⟨-, e⟩ | ⟨-, hD, e⟩ | ⟨hN, hD, e⟩ := execXStart_cases s <;> cases e.symm.trans hu
  · trivial
  · cases hm : s.mode with
    | exp => simp [State.OperandInv]
    | rm =>
      obtain ⟨-, hdec⟩ := h hm
      exact absurd hD hdec.D_ne_zero
  · exact ⟨h, toNat_pos hN, toNat_pos hD⟩

theorem execXReda_operandInv {s u : State} (hp : s.phase = .xReda) (h : s.OperandInv) (hu : execXReda s = .next u) :
    u.OperandInv := by
  simp only [State.OperandInv, hp] at h
  obtain ⟨-, e⟩ | ⟨hlt, e⟩ := execXReda_cases s <;> cases e.symm.trans hu
  · simp only [State.OperandInv, hp]; exact h
  · obtain ⟨htest, hN, hD⟩ := h
    exact ⟨htest, hN, hD, hlt, hlt⟩

theorem execXMul_operandInv {s u : State} (hp : s.phase = .xMul) (h : s.OperandInv) (hu : execXMul s = .next u) :
    u.OperandInv := by
  simp only [State.OperandInv, hp] at h
  obtain ⟨htest, hN, hD, hA, hR⟩ := h
  obtain ⟨-, e⟩ | ⟨-, -, e⟩ | ⟨-, -, e⟩ := execXMul_cases s <;> cases e.symm.trans hu
  · cases hm : s.mode with
    | exp => simp [State.OperandInv, hm]
    | rm =>
      obtain ⟨hodd, hdec⟩ := htest hm
      simp only [State.OperandInv, State.xexit_phase, hm]
      exact ⟨hm, hodd, hdec, hR⟩
  · trivial
  · exact ⟨htest, hN, hD, hA⟩

theorem execXRedr_operandInv {s u : State} (hp : s.phase = .xRedr) (h : s.OperandInv) (hu : execXRedr s = .next u) :
    u.OperandInv := by
  simp only [State.OperandInv, hp] at h
  obtain ⟨-, e⟩ | ⟨hlt, e⟩ := execXRedr_cases s <;> cases e.symm.trans hu
  · simp only [State.OperandInv, hp]; exact h
  · obtain ⟨htest, hN, hD, hA⟩ := h
    exact ⟨htest, hN, hD, hA, hlt⟩

theorem execRmCheck_operandInv {s u : State} (hp : s.phase = .rmCheck) (h : s.OperandInv)
    (hu : execRmCheck s = .next u) : u.OperandInv := by
  simp only [State.OperandInv, hp] at h
  obtain ⟨-, e⟩ | ⟨-, -, e⟩ | ⟨-, e⟩ | ⟨hodd, hge, e⟩ := execRmCheck_cases s <;> cases e.symm.trans hu
  · trivial
  · trivial
  · trivial
  · have hpred : (s.N - 1#64).toNat = s.N.toNat - 1 := toNat_sub_one (by rintro e; simp [e] at hge)
    exact ⟨h, ⟨hodd, hge⟩, by simp [hpred], fun _ => by dsimp only; omega⟩

/-- Halving an even `D` and counting the halving in `S` keeps `D * 2^S` (R113). -/
theorem halve_mul_two_pow {D S m : Nat} (heven : D % 2 = 0) (h : D * 2 ^ S = m) : D / 2 * 2 ^ (S + 1) = m := by
  rw [Nat.pow_succ', ← Nat.mul_assoc, Nat.div_mul_cancel (Nat.dvd_of_mod_eq_zero heven), h]

/-- A power of two that divides a positive number below `2^64` has an exponent of at most 63 (R114). -/
theorem exponent_le_of_mul_two_pow {D S m : Nat} (h : D * 2 ^ S = m) (hpos : 0 < m) (hlt : m < 2 ^ 64) : S ≤ 63 := by
  have hD : 0 < D := Nat.pos_of_mul_pos_right (h ▸ hpos)
  have : 2 ^ S < 2 ^ 64 := lt_of_le_of_lt (h ▸ Nat.le_mul_of_pos_left _ hD) hlt
  have := (Nat.pow_lt_pow_iff_right (by decide : 1 < 2)).1 this
  omega

theorem execRmDecomp_operandInv {s u : State} (hp : s.phase = .rmDecomp) (h : s.OperandInv)
    (hu : execRmDecomp s = .next u) : u.OperandInv := by
  simp only [State.OperandInv, hp] at h
  obtain ⟨hm, ⟨hodd, hge⟩, hprod, hstart⟩ := h
  have hS : s.S.toNat ≤ 63 := exponent_le_of_mul_two_pow hprod (by omega) (by have := s.N.isLt; omega)
  obtain ⟨heven, e⟩ | ⟨hD, e⟩ := execRmDecomp_cases s <;> cases e.symm.trans hu
  · have hsucc : (s.S + 1#64).toNat = s.S.toNat + 1 := toNat_add_one (by omega)
    simp only [State.OperandInv, hp]
    exact ⟨hm, ⟨hodd, hge⟩, by simpa [hsucc, Nat.shiftRight_eq_div_pow] using halve_mul_two_pow heven hprod,
      fun h0 => by simp [hsucc] at h0⟩
  · exact ⟨hm, ⟨hodd, hge⟩, hD, hprod, by dsimp only; omega, hS⟩

theorem execRmFirst_operandInv {s u : State} (hp : s.phase = .rmFirst) (h : s.OperandInv)
    (hu : execRmFirst s = .next u) : u.OperandInv := by
  simp only [State.OperandInv, hp] at h
  obtain ⟨hm, hodd, hdec, hR⟩ := h
  obtain ⟨-, e⟩ | ⟨-, e⟩ := execRmFirst_cases s <;> cases e.symm.trans hu
  · trivial
  · exact ⟨hm, hodd, hdec, Nat.zero_le _, hR⟩

theorem execRmSq_operandInv {s u : State} (hp : s.phase = .rmSq) (h : s.OperandInv) (hu : execRmSq s = .next u) :
    u.OperandInv := by
  simp only [State.OperandInv, hp] at h
  obtain ⟨hm, hodd, hdec, hIS, hR⟩ := h
  obtain ⟨-, -, hS, -⟩ := id hdec
  obtain ⟨heq, e⟩ | ⟨-, -, e⟩ | ⟨hne, -, e⟩ := execRmSq_cases s <;> cases e.symm.trans hu
  · exact ⟨hm, hodd, hdec, hIS, heq ▸ hS, hR⟩
  · trivial
  · have hlt : s.I.toNat < s.S.toNat := lt_of_le_of_ne hIS fun e => hne (BitVec.eq_of_toNat_eq e)
    have hsucc : (s.I + 1#64).toNat = s.I.toNat + 1 := toNat_add_one (by omega)
    exact ⟨hm, hodd, hdec, by dsimp only; omega, by dsimp only; omega⟩

theorem execRmSqred_operandInv {s u : State} (hp : s.phase = .rmSqred) (h : s.OperandInv)
    (hu : execRmSqred s = .next u) : u.OperandInv := by
  simp only [State.OperandInv, hp] at h
  obtain ⟨-, e⟩ | ⟨hlt, -, e⟩ | ⟨hlt, -, e⟩ := execRmSqred_cases s <;> cases e.symm.trans hu
  · simp only [State.OperandInv, hp]; exact h
  · obtain ⟨hm, hodd, hdec, hIS, hI⟩ := h
    exact ⟨hm, hodd, hdec, hIS, hI, hlt⟩
  · obtain ⟨hm, hodd, hdec, hIS, -⟩ := h
    exact ⟨hm, hodd, hdec, hIS, hlt⟩

/-- The instruction a micro-step runs is the one of its phase. -/
theorem State.OperandInv.microStep {s u : State} {i : Instr} (h : s.OperandInv) (he : s.event = .sequencer)
    (hf : s.fetch = some i) (hi : i ≠ .rmDraw) (hu : exec i s = .next u) : u.OperandInv := by
  rw [State.fetch_sequencer he] at hf
  cases hp : s.phase <;> rw [hp] at hf <;> cases hf
  case xStart => exact execXStart_operandInv hp h hu
  case xReda => exact execXReda_operandInv hp h hu
  case xMul => exact execXMul_operandInv hp h hu
  case xRedr => exact execXRedr_operandInv hp h hu
  case rmCheck => exact execRmCheck_operandInv hp h hu
  case rmDecomp => exact execRmDecomp_operandInv hp h hu
  case rmDraw => exact absurd rfl hi
  case rmFirst => exact execRmFirst_operandInv hp h hu
  case rmSq => exact execRmSq_operandInv hp h hu
  case rmSqred => exact execRmSqred_operandInv hp h hu
  case rmVerdict => cases (execRmVerdict_eq s).symm.trans hu; trivial

/-- Nothing is asked of the operands while the host may write them. -/
theorem State.OperandInv.of_accepts {s : State} (ha : s.phase.accepts = true) : s.OperandInv := by
  obtain hp | hp := Phase.accepts_iff.1 ha <;> simp [State.OperandInv, hp]

theorem State.OperandInv.hostWrite {s u : State} {slot : Slot} {v : Word} (h : s.OperandInv) (hw : HostWrite s slot v u) :
    u.OperandInv := by
  cases hw with
  | operandA v ha | operandD v ha | operandN v ha => exact .of_accepts ha
  | expmod => exact nofun
  | rmtest => exact rfl
  | illegal => trivial
  | witness w hp =>
    simp only [State.OperandInv, hp] at h
    obtain ⟨-, hodd, hdec⟩ := h
    exact fun _ => ⟨hodd, hdec⟩
  | dropped => exact h

theorem Transition.inv {s u : State} (h : s.Inv) (hu : Transition s u) : u.Inv := by
  obtain ⟨hfault, hop⟩ := State.inv_iff.1 h
  refine State.inv_iff.2 ?_
  cases hu with
  | idleTurn => exact ⟨hfault, hop⟩
  | microStep he hf hi hu => exact ⟨hfault.microStep he hf hi hu, hop.microStep he hf hi hu⟩
  | hostRead => exact ⟨⟨hfault.faulted, hfault.unfaulted, hfault.faultPhase⟩, hop⟩
  | hostWrite he hw => exact ⟨hfault.hostWrite hw, hop.hostWrite hw⟩
  | reset => exact ⟨⟨by simp, by simp, by simp⟩, trivial⟩

theorem State.Inv.advance {s : State} (h : s.Inv) : s.advance.Inv := by
  obtain ⟨hfault, hop⟩ := State.inv_iff.1 h
  exact State.inv_iff.2 ⟨⟨hfault.faulted, hfault.unfaulted, hfault.faultPhase⟩, hop⟩

end Sys2Proof.Machine
end

section
/-! SUPPORT. What the residue is, read off by phase, and that every transition keeps it (R34 item 3, R87, R119, R126). -/

namespace Sys2Proof.Machine

/-- In an `RMTEST` the reduced base is the reduced witness (R119, R127). -/
def State.BaseIsWitness (s : State) : Prop := s.mode = .rm → s.A.toNat = s.WIT.toNat % s.N.toNat

/-- `LASTM` is the value whose square is the `I`-th, and it is not 1 (R121, R126). -/
def State.LastSquared (s : State) : Prop :=
  s.LASTM.toNat ≠ 1 ∧ s.LASTM.toNat = s.A.toNat ^ (s.D.toNat * 2 ^ (s.I.toNat - 1)) % s.N.toNat

/-- What `State.ResidueInv` says, read off by phase (R34 item 3, R87, R93, R119, R126). -/
def State.PhaseResidue (s : State) : Prop :=
  match s.phase with
  | .idle | .done | .fault | .rmCheck | .rmDecomp | .rmDraw => True
  | .xStart | .xReda => s.mode = .rm → s.A.toNat % s.N.toNat = s.WIT.toNat % s.N.toNat
  | .xMul =>
    s.BaseIsWitness ∧
      s.CNT.toNat < s.D.toNat ∧ s.R.toNat = s.A.toNat ^ (s.D.toNat - s.CNT.toNat) % s.N.toNat
  | .xRedr =>
    s.BaseIsWitness ∧
      s.CNT.toNat < s.D.toNat ∧ s.R.toNat % s.N.toNat = s.A.toNat ^ (s.D.toNat - s.CNT.toNat) % s.N.toNat
  | .rmFirst => s.BaseIsWitness ∧ s.R.toNat = s.A.toNat ^ s.D.toNat % s.N.toNat
  | .rmSq =>
    s.BaseIsWitness ∧ s.R.toNat ≠ 1 ∧ s.R.toNat = s.A.toNat ^ (s.D.toNat * 2 ^ s.I.toNat) % s.N.toNat ∧
      (1 ≤ s.I.toNat → s.LastSquared)
  | .rmSqred =>
    s.BaseIsWitness ∧ s.R.toNat % s.N.toNat = s.A.toNat ^ (s.D.toNat * 2 ^ s.I.toNat) % s.N.toNat ∧ s.LastSquared
  | .rmVerdict =>
    s.BaseIsWitness ∧ s.R.toNat = s.A.toNat ^ (s.D.toNat * 2 ^ s.I.toNat) % s.N.toNat ∧ s.LastSquared ∧
      (s.R.toNat ≠ 1 → s.I = s.S)

theorem State.phaseResidue_of_residueInv {s : State} (h : s.ResidueInv) : s.PhaseResidue := by
  unfold State.PhaseResidue
  cases hp : s.phase
  case idle | done | fault | rmCheck | rmDecomp | rmDraw => trivial
  case xStart | xReda => exact fun hm => h.witnessBase hm (by simp [hp])
  all_goals have hbase : s.BaseIsWitness := fun hm => h.witness hm (by simp [hp])
  case xMul => exact ⟨hbase, h.multiply hp⟩
  case xRedr => exact ⟨hbase, h.reduce hp⟩
  case rmFirst => exact ⟨hbase, h.first hp⟩
  case rmSq => exact ⟨hbase, h.square hp⟩
  case rmSqred => exact ⟨hbase, h.squareReduce hp⟩
  case rmVerdict =>
    obtain ⟨hR, hne, hlast, hall⟩ := h.verdict hp
    exact ⟨hbase, hR, ⟨hne, hlast⟩, hall⟩

theorem State.residueInv_of_phaseResidue {s : State} (h : s.PhaseResidue) : s.ResidueInv where
  multiply hp := by simp only [State.PhaseResidue, hp] at h; exact h.2
  reduce hp := by simp only [State.PhaseResidue, hp] at h; exact h.2
  first hp := by simp only [State.PhaseResidue, hp] at h; exact h.2
  square hp := by simp only [State.PhaseResidue, hp] at h; exact h.2
  squareReduce hp := by simp only [State.PhaseResidue, hp] at h; exact h.2
  verdict hp := by
    simp only [State.PhaseResidue, hp] at h
    obtain ⟨-, hR, ⟨hne, hlast⟩, hall⟩ := h
    exact ⟨hR, hne, hlast, hall⟩
  witnessBase hm hp := by cases hq : s.phase <;> simp [State.PhaseResidue, hq] at h hp <;> exact h hm
  witness hm hp := by cases hq : s.phase <;> simp [State.PhaseResidue, hq] at h hp <;> exact h.1 hm

theorem State.residueInv_iff {s : State} : s.ResidueInv ↔ s.PhaseResidue :=
  ⟨State.phaseResidue_of_residueInv, State.residueInv_of_phaseResidue⟩

/-! ### Arithmetic of the loops -/

/-- One more multiplication by the base (R87). -/
theorem mul_residue_eq_pow {a d c n r : Nat} (hc : 0 < c) (hcd : c < d) (hr : r = a ^ (d - c) % n) :
    r * a % n = a ^ (d - (c - 1)) % n := by
  rw [hr, Nat.mod_mul_mod, ← Nat.pow_succ, show d - (c - 1) = d - c + 1 by omega]

/-- One more squaring (R126). -/
theorem sq_residue_eq_pow {a d i n r : Nat} (hr : r = a ^ (d * 2 ^ i) % n) :
    r * r % n = a ^ (d * 2 ^ (i + 1)) % n := by
  rw [hr, ← Nat.mul_mod, ← Nat.pow_add, Nat.pow_succ, ← Nat.mul_two, Nat.mul_assoc]

theorem toNat_ne_one {x : Word} (h : x ≠ 1#64) : x.toNat ≠ 1 := fun e => h (BitVec.eq_of_toNat_eq e)

/-- `x - n` keeps the value modulo `n` when nothing is borrowed (R91). -/
theorem toNat_sub_mod {x n : Word} (h : n.toNat ≤ x.toNat) : (x - n).toNat % n.toNat = x.toNat % n.toNat :=
  subtractOnce_mod (subtractOnce_some.2 ⟨h, rfl⟩)

/-! ### The residue, micro-step by micro-step -/

theorem execXStart_phaseResidue {s u : State} (hp : s.phase = .xStart) (hop : s.OperandInv) (h : s.PhaseResidue)
    (hu : execXStart s = .next u) : u.PhaseResidue := by
  simp only [State.PhaseResidue, hp] at h
  obtain ⟨-, e⟩ | ⟨-, hD, e⟩ | ⟨-, -, e⟩ := execXStart_cases s <;> cases e.symm.trans hu
  · trivial
  · cases hm : s.mode with
    | exp => simp [State.PhaseResidue]
    | rm =>
      obtain ⟨-, hdec⟩ := hop.test hm (by simp [hp])
      exact absurd hD hdec.D_ne_zero
  · exact h

theorem execXReda_phaseResidue {s u : State} (hp : s.phase = .xReda) (hop : s.OperandInv) (h : s.PhaseResidue)
    (hu : execXReda s = .next u) : u.PhaseResidue := by
  simp only [State.PhaseResidue, hp] at h
  simp only [State.OperandInv, hp] at hop
  obtain ⟨-, -, hD⟩ := hop
  obtain ⟨hle, e⟩ | ⟨hlt, e⟩ := execXReda_cases s <;> cases e.symm.trans hu
  · simp only [State.PhaseResidue, hp]
    exact fun hm => (toNat_sub_mod hle).trans (h hm)
  · have hpred : (s.D - 1#64).toNat = s.D.toNat - 1 := toNat_sub_one (by rintro e; simp [e] at hD)
    refine ⟨fun hm => (Nat.mod_eq_of_lt hlt).symm.trans (h hm), ?_, ?_⟩ <;> dsimp only <;> rw [hpred]
    · omega
    · rw [Nat.sub_sub_self hD, Nat.pow_one, Nat.mod_eq_of_lt hlt]

theorem execXMul_phaseResidue {s u : State} (hp : s.phase = .xMul) (h : s.PhaseResidue)
    (hu : execXMul s = .next u) : u.PhaseResidue := by
  simp only [State.PhaseResidue, hp] at h
  obtain ⟨hbase, hcnt, hR⟩ := h
  obtain ⟨h0, e⟩ | ⟨-, -, e⟩ | ⟨h0, hlt, e⟩ := execXMul_cases s <;> cases e.symm.trans hu
  · cases hm : s.mode with
    | exp => simp [State.PhaseResidue, hm]
    | rm =>
      simp only [State.PhaseResidue, State.xexit_phase, hm]
      exact ⟨hbase, by simpa [h0] using hR⟩
  · trivial
  · have hpred : (s.CNT - 1#64).toNat = s.CNT.toNat - 1 := toNat_sub_one h0
    refine ⟨hbase, ?_, ?_⟩ <;> dsimp only <;> rw [hpred]
    · omega
    · rw [BitVec.toNat_ofNat, Nat.mod_eq_of_lt hlt]
      exact mul_residue_eq_pow (toNat_pos h0) hcnt hR

theorem execXRedr_phaseResidue {s u : State} (hp : s.phase = .xRedr) (h : s.PhaseResidue)
    (hu : execXRedr s = .next u) : u.PhaseResidue := by
  simp only [State.PhaseResidue, hp] at h
  obtain ⟨hbase, hcnt, hR⟩ := h
  obtain ⟨hle, e⟩ | ⟨hlt, e⟩ := execXRedr_cases s <;> cases e.symm.trans hu
  · simp only [State.PhaseResidue, hp]
    exact ⟨hbase, hcnt, (toNat_sub_mod hle).trans hR⟩
  · exact ⟨hbase, hcnt, (Nat.mod_eq_of_lt hlt).symm.trans hR⟩

theorem execRmCheck_phaseResidue {s u : State} (hu : execRmCheck s = .next u) : u.PhaseResidue := by
  obtain ⟨-, e⟩ | ⟨-, -, e⟩ | ⟨-, e⟩ | ⟨-, -, e⟩ := execRmCheck_cases s <;> cases e.symm.trans hu <;> trivial

theorem execRmDecomp_phaseResidue {s u : State} (hp : s.phase = .rmDecomp) (hu : execRmDecomp s = .next u) :
    u.PhaseResidue := by
  obtain ⟨-, e⟩ | ⟨-, e⟩ := execRmDecomp_cases s <;> cases e.symm.trans hu
  · simp only [State.PhaseResidue, hp]
  · trivial

theorem execRmFirst_phaseResidue {s u : State} (hp : s.phase = .rmFirst) (h : s.PhaseResidue)
    (hu : execRmFirst s = .next u) : u.PhaseResidue := by
  simp only [State.PhaseResidue, hp] at h
  obtain ⟨hbase, hR⟩ := h
  obtain ⟨-, e⟩ | ⟨hne, e⟩ := execRmFirst_cases s <;> cases e.symm.trans hu
  · trivial
  · exact ⟨hbase, toNat_ne_one hne, by simpa using hR, by simp⟩

theorem execRmSq_phaseResidue {s u : State} (hp : s.phase = .rmSq) (hop : s.OperandInv) (h : s.PhaseResidue)
    (hu : execRmSq s = .next u) : u.PhaseResidue := by
  simp only [State.PhaseResidue, hp] at h
  simp only [State.OperandInv, hp] at hop
  obtain ⟨hbase, hne1, hR, hlast⟩ := h
  obtain ⟨-, -, ⟨-, -, hS, hS63⟩, hIS, -⟩ := hop
  obtain ⟨heq, e⟩ | ⟨-, -, e⟩ | ⟨-, hlt, e⟩ := execRmSq_cases s <;> cases e.symm.trans hu
  · exact ⟨hbase, hR, hlast (heq ▸ hS), fun _ => heq⟩
  · trivial
  · have hsucc : (s.I + 1#64).toNat = s.I.toNat + 1 := toNat_add_one (by omega)
    refine ⟨hbase, ?_, hne1, ?_⟩ <;> dsimp only <;> rw [hsucc]
    · rw [BitVec.toNat_ofNat, Nat.mod_eq_of_lt hlt]
      exact sq_residue_eq_pow hR
    · exact hR

theorem execRmSqred_phaseResidue {s u : State} (hp : s.phase = .rmSqred) (h : s.PhaseResidue)
    (hu : execRmSqred s = .next u) : u.PhaseResidue := by
  simp only [State.PhaseResidue, hp] at h
  obtain ⟨hbase, hR, hlast⟩ := h
  obtain ⟨hle, e⟩ | ⟨hlt, h1, e⟩ | ⟨hlt, hne, e⟩ := execRmSqred_cases s <;> cases e.symm.trans hu
  · simp only [State.PhaseResidue, hp]
    exact ⟨hbase, (toNat_sub_mod hle).trans hR, hlast⟩
  · exact ⟨hbase, (Nat.mod_eq_of_lt hlt).symm.trans hR, hlast, fun hne => absurd (congrArg BitVec.toNat h1) hne⟩
  · exact ⟨hbase, toNat_ne_one hne, (Nat.mod_eq_of_lt hlt).symm.trans hR, fun _ => hlast⟩

theorem State.PhaseResidue.microStep {s u : State} {i : Instr} (hop : s.OperandInv) (h : s.PhaseResidue)
    (he : s.event = .sequencer) (hf : s.fetch = some i) (hi : i ≠ .rmDraw) (hu : exec i s = .next u) :
    u.PhaseResidue := by
  rw [State.fetch_sequencer he] at hf
  cases hp : s.phase <;> rw [hp] at hf <;> cases hf
  case xStart => exact execXStart_phaseResidue hp hop h hu
  case xReda => exact execXReda_phaseResidue hp hop h hu
  case xMul => exact execXMul_phaseResidue hp h hu
  case xRedr => exact execXRedr_phaseResidue hp h hu
  case rmCheck => exact execRmCheck_phaseResidue hu
  case rmDecomp => exact execRmDecomp_phaseResidue hp hu
  case rmDraw => exact absurd rfl hi
  case rmFirst => exact execRmFirst_phaseResidue hp h hu
  case rmSq => exact execRmSq_phaseResidue hp hop h hu
  case rmSqred => exact execRmSqred_phaseResidue hp h hu
  case rmVerdict => cases (execRmVerdict_eq s).symm.trans hu; trivial

theorem State.PhaseResidue.of_accepts {s : State} (ha : s.phase.accepts = true) : s.PhaseResidue := by
  obtain hp | hp := Phase.accepts_iff.1 ha <;> simp [State.PhaseResidue, hp]

theorem State.PhaseResidue.hostWrite {s u : State} {slot : Slot} {v : Word} (h : s.PhaseResidue)
    (hw : HostWrite s slot v u) : u.PhaseResidue := by
  cases hw with
  | operandA v ha | operandD v ha | operandN v ha => exact .of_accepts ha
  | expmod => exact nofun
  | rmtest => trivial
  | illegal => trivial
  | witness w hp => exact fun _ => rfl
  | dropped => exact h

theorem Transition.phaseResidue {s u : State} (hop : s.OperandInv) (h : s.PhaseResidue) (hu : Transition s u) :
    u.PhaseResidue := by
  cases hu with
  | idleTurn => exact h
  | microStep he hf hi hu => exact h.microStep hop he hf hi hu
  | hostRead => exact h
  | hostWrite he hw => exact h.hostWrite hw
  | reset => trivial

end Sys2Proof.Machine
end

section
/-! SUPPORT. The family `10_state.md`: the statements it settles. -/

namespace Sys2Proof.Machine

/-- Settles O38: each transition keeps the fault clauses and the operand clauses of `State.Inv`, and the schedule is in
neither. -/
theorem stepKeepsInvariants : Obligations.StepKeepsInvariants := by
  intro s t h hstep
  obtain ⟨u, hu, rfl⟩ := transition_of_step hstep
  exact (hu.inv h).advance

/-- Settles O40: each transition keeps what the residue is in its phase; the operand clauses of `State.Inv` rule out a wrap
of `D - 1` and `I + 1`. -/
theorem stepKeepsResidue : Obligations.StepKeepsResidue := by
  intro s t hinv h hstep
  obtain ⟨u, hu, rfl⟩ := transition_of_step hstep
  obtain ⟨-, hop⟩ := State.inv_iff.1 hinv
  have hres : u.PhaseResidue := hu.phaseResidue hop (State.residueInv_iff.1 h)
  exact State.residueInv_iff.2 hres

/-- Settles O5, from the fields of the word and the phases of the flags; `FAULT = 1` iff `ERR` is not 0 is R34 item 7. -/
theorem statusWordFields : Obligations.StatusWordFields := by
  intro s
  obtain ⟨h0, h1, h2, h3, h4, h5, h6, h7⟩ := s.statusWord_bits
  obtain ⟨herr, hphase, hfphase, hupper⟩ := s.statusWord_fields
  rw [h0, h1, h2, h3, h4, herr]
  refine ⟨?_, State.done_iff, State.fault_iff, State.wreq_iff, Mode.bit_iff, h5, h6, h7, rfl, hphase, hfphase, hupper,
    s.busy_done_fault_exclusive, fun hinv => ?_, fun v rest hp => ?_, fun rest hp => ?_⟩
  · rw [State.busy_iff]; cases s.phase <;> decide
  · rw [State.fault_iff, hinv.faulted, not_iff_not, ErrCode.code_eq_zero_iff]
  · rw [step_writeSlot (State.event_cons hp) (by decide) (by simp)]
    simp [State.writeSlot, State.dropWrite, State.advance, hp]
  · rw [step_hostRead (State.event_cons hp)]
    simp [State.answerRead, State.slotValue, State.advance, hp]

/-- Settles O34, instruction by instruction, from what each can do. -/
theorem registerWriters : Obligations.RegisterWriters := by
  intro i s t h
  cases i with
  | expmod =>
    obtain e | e := s.giveCommand_cases .exp .xStart <;> cases (execExpmod_eq s).symm.trans h <;> simp [e]
  | rmtest =>
    obtain e | e := s.giveCommand_cases .rm .rmCheck <;> cases (execRmtest_eq s).symm.trans h <;> simp [e]
  | xStart => obtain ⟨-, e⟩ | ⟨-, -, e⟩ | ⟨-, -, e⟩ := execXStart_cases s <;> cases e.symm.trans h <;> simp
  | xReda => obtain ⟨-, e⟩ | ⟨-, e⟩ := execXReda_cases s <;> cases e.symm.trans h <;> simp
  | xMul => obtain ⟨-, e⟩ | ⟨-, -, e⟩ | ⟨-, -, e⟩ := execXMul_cases s <;> cases e.symm.trans h <;> simp
  | xRedr => obtain ⟨-, e⟩ | ⟨-, e⟩ := execXRedr_cases s <;> cases e.symm.trans h <;> simp
  | rmCheck =>
    obtain ⟨-, e⟩ | ⟨-, -, e⟩ | ⟨-, e⟩ | ⟨-, -, e⟩ := execRmCheck_cases s <;> cases e.symm.trans h <;> simp
  | rmDecomp => obtain ⟨-, e⟩ | ⟨-, e⟩ := execRmDecomp_cases s <;> cases e.symm.trans h <;> simp
  | rmDraw => obtain ⟨w, -, e⟩ | ⟨-, e⟩ := execRmDraw_cases s <;> cases e.symm.trans h <;> simp
  | rmFirst => obtain ⟨-, e⟩ | ⟨-, e⟩ := execRmFirst_cases s <;> cases e.symm.trans h <;> simp
  | rmSq => obtain ⟨-, e⟩ | ⟨-, -, e⟩ | ⟨-, -, e⟩ := execRmSq_cases s <;> cases e.symm.trans h <;> simp
  | rmSqred => obtain ⟨-, e⟩ | ⟨-, -, e⟩ | ⟨-, -, e⟩ := execRmSqred_cases s <;> cases e.symm.trans h <;> simp
  | rmVerdict => cases (execRmVerdict_eq s).symm.trans h; simp

/-- Settles O35: a host write is one of the effects of `HostWrite`. -/
theorem hostWritesOperandsOnly : Obligations.HostWritesOperandsOnly := by
  intro s t slot v rest hpend h
  obtain ⟨u, hu, rfl⟩ := hostWrite_of_step (State.event_cons hpend) h
  cases hu with
  | operandA v ha => simp [Phase.accepts_iff.1 ha]
  | operandD v ha => simp [Phase.accepts_iff.1 ha]
  | operandN v ha => simp [Phase.accepts_iff.1 ha]
  | expmod ha => simp
  | rmtest ha => simp
  | illegal v ha h1 h2 => simp
  | witness w hp => simp [hp]
  | dropped slot v => simp

/-- Settles O37: only a drop writes `werr`, and only a raised fault writes `err` and `fphase`; the phases that raise one
are not `FAULT`. -/
theorem stickyFields : Obligations.StickyFields := by
  intro s t h hr
  obtain ⟨u, hu, rfl⟩ := transition_of_step h
  cases hu with
  | idleTurn he hp => simp
  | microStep he hf hi hu =>
    have hp := State.phase_of_fetch he hf hi
    obtain ⟨_, _, _, _, _, _, _, _, _, rfl, -⟩ | ⟨c, rfl, -, -⟩ := microStep_cases he hf hu
    · simp
    · exact ⟨id, fun _ => ⟨fun e => by simp [e] at hp, rfl⟩⟩
  | hostRead slot he => simp
  | hostWrite he hw =>
    cases hw with
    | illegal v ha h1 h2 => obtain hp | hp := Phase.accepts_iff.1 ha <;> simp [hp]
    | operandA | operandD | operandN | expmod | rmtest | witness | dropped => simp
  | reset he => exact absurd (State.pending_of_event he (by simp)) hr

/-- Settles O59: of the transitions that are not a micro-step, those that write `phase` write one value each. -/
theorem phaseWriters : Obligations.PhaseWriters := by
  intro s t h hne
  obtain ⟨u, hu, rfl⟩ := transition_of_step h
  cases hu with
  | idleTurn he hp => exact absurd rfl hne
  | microStep he hf hi hu => exact .inl ⟨State.event_sequencer.1 he, State.phase_of_fetch he hf hi⟩
  | hostRead slot he => exact absurd rfl hne
  | hostWrite he hw =>
    obtain ⟨rest, hpend⟩ := State.pending_of_event he (by simp)
    cases hw with
    | operandA | operandD | operandN | dropped => exact absurd rfl hne
    | expmod ha => exact .inr (.inl ⟨_, rest, hpend, Phase.accepts_iff.1 ha, rfl⟩)
    | rmtest ha => exact .inr (.inl ⟨_, rest, hpend, Phase.accepts_iff.1 ha, rfl⟩)
    | illegal v ha h1 h2 => exact .inr (.inl ⟨_, rest, hpend, Phase.accepts_iff.1 ha, by simp [h1, h2]⟩)
    | witness w hp => exact .inr (.inr (.inl ⟨_, rest, hpend, hp, rfl⟩))
  | reset he => exact .inr (.inr (.inr ((State.pending_of_event he (by simp)).imp fun _ hpend => ⟨hpend, rfl⟩)))

/-- Settles O6, code by code. -/
theorem phaseCodes : Obligations.PhaseCodes := by
  refine ⟨rfl, rfl, rfl, rfl, rfl, rfl, rfl, rfl, rfl, rfl, rfl, rfl, rfl, rfl, fun p => ?_⟩
  cases p <;> simp [decode, decodePhase, Phase.code]

/-- Settles O7: the outputs are the status flags, and these are functions of `phase`. -/
theorem levelOutputsFollowPhase : Obligations.LevelOutputsFollowPhase := by
  intro s t
  obtain ⟨h0, h1, h2, h3, -⟩ := s.statusWord_bits
  rw [h0, h1, h2, h3, s.levels_eq, t.levels_eq]
  refine ⟨State.busy_iff, State.done_iff, State.fault_iff, State.wreq_iff, rfl, rfl, rfl, rfl, fun _ hne hp => hne ?_⟩
  simp only [State.busy, State.done, State.fault, State.wreq, hp]

/-- Settles O32: every field by definition, and the two words by evaluation. -/
theorem resetValues : Obligations.ResetValues := by
  exact ⟨rfl, rfl, rfl, rfl, rfl, rfl, rfl, rfl, rfl, rfl, rfl, rfl, rfl, rfl, rfl, by decide, rfl, by decide⟩

/-- Settles O39: in `IDLE` without a fault only the fault clauses ask something. -/
theorem resetHasInvariants : Obligations.ResetHasInvariants :=
  State.inv_iff.2 ⟨⟨by decide, by decide, by decide⟩, trivial⟩

/-- Settles O41: in `IDLE` there is no residue. -/
theorem resetHasResidue : Obligations.ResetHasResidue := State.residueInv_iff.2 trivial

end Sys2Proof.Machine
end

section
/-! SUPPORT. The steps of the host's accesses, and of the sequencer where it has no step (R6, R43 to R51). -/

namespace Sys2Proof.Machine

/-! ### Which steps have a next state -/

/-- Only an access that is not one whole slot has no next state (R43). -/
theorem step_next_of_not_offSlot {s : State} (h : s.event ≠ .hostOffSlot) : ∃ t, step s = .next t := by
  cases hf : s.fetch with
  | some i =>
    obtain ⟨u, hu⟩ := exec_next i s
    exact ⟨u.advance, by simp [step, hf, hu, moveOn]⟩
  | none =>
    cases he : s.event with
    | sequencer | hostRead | hostWrite | reset => exact ⟨_, by simp [step, hf, State.uninstructed, he, moveOn]; rfl⟩
    | hostOffSlot => exact absurd he h

/-- A turn of the sequencer in a phase without a step, or in the hold, only moves the schedule on (R6, R116). -/
theorem step_turn_without_step {s : State} (he : s.event = .sequencer)
    (hp : s.phase = .idle ∨ s.phase = .rmDraw ∨ s.phase = .done ∨ s.phase = .fault) : step s = .next s.advance := by
  obtain hp | hp | hp | hp := hp <;> rw [step_sequencer he, hp] <;> rfl

/-- Moving on from a state whose schedule is known. -/
theorem State.advance_eq {u : State} {e : Event} {rest : List Event} (h : u.pending = e :: rest) :
    u.advance = { u with pending := rest } := by simp [State.advance, h]

/-- The step of a host read (R44). -/
theorem step_read {s : State} {slot : Slot} {rest : List Event} (hpend : s.pending = .hostRead slot :: rest) :
    step s = .next { s with pending := rest, replies := (slot, s.slotValue slot) :: s.replies } := by
  rw [step_hostRead (State.event_cons hpend), State.advance_eq (u := s.answerRead slot) hpend]
  rfl

/-- The view `WMAX` as a number (R20). -/
theorem State.wmax_toNat (s : State) : s.wmax.toNat = if s.N = 0#64 then 2 ^ 64 - 1 else s.N.toNat - 1 := by
  split
  · next hN => simp [State.wmax, hN]
  · next hN => exact toNat_sub_one hN

/-! ### The host writes that are dropped -/

/-- The writes that have an effect of their own: of an operand or a command where the block accepts them (R46, R62, R63),
and of the witness in `RM_DRAW` (R117). -/
def State.TakesWrite (s : State) (slot : Slot) : Prop :=
  (slot ∈ [.a, .d, .n, .cmd] ∧ s.phase.accepts = true) ∨ (slot = .wit ∧ s.phase = .rmDraw)

/-- Where the block does not accept, it takes the witness alone, in `RM_DRAW` (R50). -/
theorem State.takesWrite_iff_of_not_accepts {s : State} {slot : Slot} (ha : s.phase.accepts = false) :
    s.TakesWrite slot ↔ slot = .wit ∧ s.phase = .rmDraw := by simp [State.TakesWrite, ha]

/-- Every other write has the one effect of R49. -/
theorem HostWrite.eq_dropWrite {s u : State} {slot : Slot} {v : Word} (hw : HostWrite s slot v u)
    (hn : ¬ s.TakesWrite slot) : u = s.dropWrite := by
  cases hw with
  | operandA v ha | operandD v ha | operandN v ha => exact absurd (.inl ⟨by simp, ha⟩) hn
  | expmod ha | rmtest ha | illegal v ha h1 h2 => exact absurd (.inl ⟨by simp, ha⟩) hn
  | witness w hp => exact absurd (.inr ⟨rfl, hp⟩) hn
  | dropped slot v => rfl

/-- The step of a write that is not taken (R49). -/
theorem step_dropped {s : State} {slot : Slot} {v : Word} {rest : List Event}
    (hpend : s.pending = .hostWrite slot v :: rest) (hn : ¬ s.TakesWrite slot) :
    step s = .next { s with werr := true, pending := rest } := by
  have he : s.event = .hostWrite slot v := State.event_cons hpend
  obtain ⟨t, ht⟩ := step_next_of_not_offSlot (s := s) (by simp [he])
  obtain ⟨u, hu, rfl⟩ := hostWrite_of_step he ht
  rw [ht, hu.eq_dropWrite hn, State.advance_eq (u := s.dropWrite) hpend]
  rfl

/-- While a command runs, or in `FAULT`, only reset changes `N` or `mode` (R13, R22, R55). -/
theorem Transition.N_mode_of_not_accepts {s u : State} (hu : Transition s u) (ha : s.phase.accepts = false)
    (hr : s.event ≠ .reset) : u.N = s.N ∧ u.mode = s.mode := by
  cases hu with
  | idleTurn he hp => exact ⟨rfl, rfl⟩
  | microStep he hf hi hu =>
    obtain ⟨_, _, _, _, _, _, _, _, _, rfl, -⟩ | ⟨c, rfl, -, -⟩ := microStep_cases he hf hu <;> exact ⟨rfl, rfl⟩
  | hostRead slot he => exact ⟨rfl, rfl⟩
  | hostWrite he hw =>
    cases hw with
    | operandA v ha' | operandD v ha' | operandN v ha' => cases ha.symm.trans ha'
    | expmod ha' | rmtest ha' | illegal v ha' h1 h2 => cases ha.symm.trans ha'
    | witness | dropped => exact ⟨rfl, rfl⟩
  | reset he => exact absurd he hr

end Sys2Proof.Machine
end

section
/-! SUPPORT. The family `20_memory.md`: the statements it settles. -/

namespace Sys2Proof.Machine

/-- Settles O11: every instruction has a next state, and so has every transition that runs none but the off-slot access. -/
theorem onlyOffSlotAccessesAreRefused : Obligations.OnlyOffSlotAccessesAreRefused := by
  intro s
  refine ⟨fun ⟨rest, hpend⟩ => step_hostOffSlot (State.event_cons hpend), fun hno => ?_⟩
  exact step_next_of_not_offSlot fun he => hno (State.pending_of_event he (by simp))

/-- Settles O30: in `FAULT` no write is taken and the sequencer has no step; what else could leave the phase or change `err`
and `fphase` is O59's and O37's. -/
theorem onlyResetLeavesFault : Obligations.OnlyResetLeavesFault := by
  intro s hp
  have ha : s.phase.accepts = false := by rw [hp]; rfl
  have hn (slot : Slot) : ¬ s.TakesWrite slot := by simp [State.takesWrite_iff_of_not_accepts ha, hp]
  refine ⟨fun slot v rest hpend => step_dropped hpend (hn slot), fun slot rest hpend => step_read hpend,
    fun hturn => ?turn, fun t h hne => ?leave⟩
  case turn => exact step_turn_without_step (State.event_sequencer.2 hturn) (by simp [hp])
  case leave =>
    by_contra hr
    obtain hphase | hfields := hne
    · obtain ⟨-, hstep⟩ | ⟨_, _, -, hacc, -⟩ | ⟨_, _, -, hdraw, -⟩ | ⟨rest, hpend, -⟩ :=
        phaseWriters s t h (hp ▸ hphase)
      · simp [hp] at hstep
      · simp [hp] at hacc
      · simp [hp] at hdraw
      · exact hr ⟨rest, hpend⟩
    · obtain ⟨-, hfault⟩ := stickyFields s t h hr
      obtain ⟨hunfaulted, -⟩ := hfault (hfields.imp Ne.symm Ne.symm)
      exact hunfaulted hp

/-- Settles O36: a busy block takes no write but the witness in `RM_DRAW`, and no transition but reset writes `N` or `mode`
there. -/
theorem hostCannotDisturbCommand : Obligations.HostCannotDisturbCommand := by
  intro s t hbusy h hr
  have ha : s.phase.accepts = false := by simp_all [Phase.accepts_eq_false_iff]
  obtain ⟨u, hu, e⟩ := transition_of_step h
  obtain ⟨hN, hmode⟩ := hu.N_mode_of_not_accepts ha fun he => hr (State.pending_of_event he (by simp))
  refine ⟨by rw [e]; exact hN, by rw [e]; exact hmode, ?_⟩
  rintro (⟨slot, rest, hpend⟩ | ⟨slot, v, rest, hpend, hw⟩)
  · rw [step_read hpend] at h
    cases h
    exact ⟨s.werr, (slot, s.slotValue slot) :: s.replies, by simp [hpend], id⟩
  · rw [step_dropped hpend (mt (State.takesWrite_iff_of_not_accepts ha).1 hw)] at h
    cases h
    exact ⟨true, s.replies, by simp [hpend], fun _ => rfl⟩

/-- Settles O8: the value is the read column of R41, slot by slot. -/
theorem hostReadReturnsTheSlot : Obligations.HostReadReturnsTheSlot := by
  intro s slot rest hpend
  refine ⟨s.slotValue slot, step_read hpend, ?_⟩
  cases slot <;> simp [State.slotValue, wmin, s.wmax_toNat]

/-- Settles O9, register by register. -/
theorem operandWriteStores : Obligations.OperandWriteStores := by
  intro s v rest hp
  have ha : s.phase.accepts = true := Phase.accepts_iff.2 hp
  refine ⟨fun hpend => ?_, fun hpend => ?_, fun hpend => ?_⟩ <;>
    rw [step_writeSlot (State.event_cons hpend) (by decide) (by simp)]
  · simp [State.writeSlot, State.writeA_accepted ha, State.advance, hpend]
  · simp [State.writeSlot, State.writeD_accepted ha, State.advance, hpend]
  · simp [State.writeSlot, State.writeN_accepted ha, State.advance, hpend]

/-- Settles O10: each of the three cases is a write the block does not take. -/
theorem otherHostWritesAreDropped : Obligations.OtherHostWritesAreDropped := by
  intro s slot v rest hpend hcase
  have hn : ¬ s.TakesWrite slot := by
    obtain ⟨hslot, hphase⟩ | ⟨rfl, hphase⟩ | hslot := hcase
    · rw [State.takesWrite_iff_of_not_accepts (Phase.accepts_eq_false_iff.2 hphase)]
      rintro ⟨rfl, -⟩
      simp at hslot
    · simp [State.TakesWrite, hphase]
    · rintro (⟨hslot', -⟩ | ⟨rfl, -⟩)
      · cases slot <;> simp at hslot hslot'
      · simp at hslot
  exact step_dropped hpend hn

end Sys2Proof.Machine
end

section
/-! SUPPORT. The decoder against the encoder (R60, R61, R65), the selected instruction, and the steps of a `CMD` write. -/

namespace Sys2Proof.Machine

/-! ### The decoder -/

/-- A command word is its two fields (R60). -/
theorem command_fields_iff {v : Word} {c : Code} :
    v.extractLsb' 4 60 = 0#60 ∧ v.extractLsb' 0 4 = c ↔ v = 0#60 ++ c := by
  constructor
  · rintro ⟨hzero, rfl⟩
    have hwhole : v.extractLsb' 4 60 ++ v.extractLsb' 0 4 = v.extractLsb' 0 64 :=
      BitVec.extractLsb'_append_extractLsb'_eq_extractLsb' rfl
    rw [← hzero, hwhole, BitVec.extractLsb'_eq_self]
  · rintro rfl
    exact ⟨BitVec.extractLsb'_append_eq_left, BitVec.extractLsb'_append_eq_right⟩

/-- The family `EncodeDecode` covers every instruction. -/
theorem encodeDecode (i : Instr) : Laws.EncodeDecode.Statement i := by
  cases i with
  | expmod => exact Laws.EncodeDecode.expmod
  | rmtest => exact Laws.EncodeDecode.rmtest
  | xStart => exact Laws.EncodeDecode.xStart
  | xReda => exact Laws.EncodeDecode.xReda
  | xMul => exact Laws.EncodeDecode.xMul
  | xRedr => exact Laws.EncodeDecode.xRedr
  | rmCheck => exact Laws.EncodeDecode.rmCheck
  | rmDecomp => exact Laws.EncodeDecode.rmDecomp
  | rmDraw => exact Laws.EncodeDecode.rmDraw
  | rmFirst => exact Laws.EncodeDecode.rmFirst
  | rmSq => exact Laws.EncodeDecode.rmSq
  | rmSqred => exact Laws.EncodeDecode.rmSqred
  | rmVerdict => exact Laws.EncodeDecode.rmVerdict

/-- The encoder's word for an instruction decodes to it. -/
theorem decode_encode (i : Instr) : decode (encode i) = .ok i := by
  obtain ⟨-, -, h⟩ := encodeDecode i
  exact h

/-- The two legal command words, and what each stands for (R61). -/
theorem decodeCommand_eq_ok_iff {v : Word} {i : Instr} :
    decodeCommand v = .ok i ↔ (v = 1#64 ∧ i = .expmod) ∨ (v = 2#64 ∧ i = .rmtest) := by
  refine ⟨decodeCommand_ok, ?_⟩
  rintro (⟨rfl, rfl⟩ | ⟨rfl, rfl⟩)
  · exact decode_encode .expmod
  · exact decode_encode .rmtest

/-- A phase code that selects a micro-step is the code the encoder gives it (R65). -/
theorem encode_of_decodePhase {c : Code} {i : Instr} (h : decodePhase c = .ok i) : encode i = .phaseCode c := by
  unfold decodePhase at h
  split at h <;> cases h
  all_goals
    next hc => exact congrArg Encoded.phaseCode (BitVec.eq_of_toNat_eq hc.symm)

/-- A word of either format that decodes is the encoder's word for what it decodes to. -/
theorem encode_of_decode {e : Encoded} {i : Instr} (h : decode e = .ok i) : encode i = e := by
  cases e with
  | command v => obtain ⟨rfl, rfl⟩ | ⟨rfl, rfl⟩ := decodeCommand_ok h <;> rfl
  | phaseCode c => exact encode_of_decodePhase h

/-! ### The selected instruction -/

/-- No instruction touches the schedule (O34 says what each writes). -/
theorem exec_pending {i : Instr} {s t : State} (h : exec i s = .next t) : t.pending = s.pending := by
  obtain ⟨-, -, -, -, -, -, -, -, -, -, -, -, -, hpending, -⟩ := registerWriters i s t h
  exact hpending

/-- On the sequencer's turn the code of `phase` selects the instruction (R65). -/
theorem State.fetch_phase {s : State} {i : Instr} (he : s.event = .sequencer)
    (hd : decode (.phaseCode s.phase.code) = .ok i) : s.fetch = some i := by
  simp [State.fetch, he, hd, Except.toOption]

/-- A legal word written to `CMD` selects its command (R61). -/
theorem State.fetch_command {s : State} {v : Word} {i : Instr} (he : s.event = .hostWrite .cmd v)
    (hd : decode (.command v) = .ok i) : s.fetch = some i := by
  simp [State.fetch, he, hd, Except.toOption]

/-- The witness write in `RM_DRAW` selects that phase's instruction (R117). -/
theorem State.fetch_witness {s : State} {w : Word} (he : s.event = .hostWrite .wit w) (hp : s.phase = .rmDraw) :
    s.fetch = some .rmDraw := by
  have hd : decode (.phaseCode Phase.rmDraw.code) = .ok .rmDraw := decode_encode .rmDraw
  simp [State.fetch, he, hp, hd, Except.toOption]

/-- A step runs the selected instruction and moves past the event. -/
theorem step_of_fetch {s : State} {i : Instr} (hf : s.fetch = some i) : step s = moveOn (exec i s) := by
  simp only [step, hf]

/-- Moving past the event of a step that ran an instruction. -/
theorem moveOn_exec {i : Instr} {s t : State} (h : exec i s = .next t) :
    moveOn (exec i s) = .next { t with pending := s.pending.tail } := by
  rw [h, ← exec_pending h]; rfl

/-! ### The steps of a write to `CMD` -/

/-- The step of a legal command word where the block accepts it (R62). -/
theorem step_command_accepted {s : State} {i : Instr} {v : Word} {m : Mode} {p : Phase} {rest : List Event}
    (ha : s.phase.accepts = true) (hpend : s.pending = .hostWrite .cmd v :: rest) (hd : decode (.command v) = .ok i)
    (hi : exec i s = .next (s.giveCommand m p)) :
    step s = .next { s with verdict := false, mode := m, phase := p, pending := rest } := by
  rw [step_of_fetch (State.fetch_command (State.event_cons hpend) hd), moveOn_exec hi, s.giveCommand_accepted ha, hpend]
  rfl

end Sys2Proof.Machine
end

section
/-! SUPPORT. `WAIT`, reads and `WITNESS` in a host script (R66, R67). -/

namespace Sys2Proof.Machine

/-- `WAIT` is over when `BUSY = 0` or `WREQ = 1` (R67). -/
theorem waitOver_iff {status : Word} : waitOver status = true ↔ status[0] = false ∨ status[3] = true := by
  simp [waitOver, BitVec.getLsbD_eq_getElem]

/-- A `WAIT` that ends leaves the script with the `STATUS` the block then has, which says that the wait is over. -/
theorem ScriptRun.wait_ends {fuel : Nat} {x y : ScriptRun} (h : x.wait fuel = some y) :
    y.waitEnd = some y.block.statusWord ∧ waitOver y.block.statusWord = true := by
  obtain ⟨t, ht, rfl⟩ := Option.map_eq_some_iff.1 h
  exact runWait_ends ht

/-- The hold shows in `WREQ`. -/
theorem State.statusWord_wreq_iff {s : State} : s.statusWord[3] = true ↔ s.phase = .rmDraw := by
  obtain ⟨-, -, -, hwreq, -⟩ := s.statusWord_bits
  rw [hwreq, State.wreq_iff]

/-- What a `WAIT` that ended on the given `STATUS` says about `WITNESS`. -/
theorem ScriptRun.witnessAsked_of_waitEnd {x : ScriptRun} {status : Word} (h : x.waitEnd = some status) :
    x.witnessAsked = status[3] := by
  simp [ScriptRun.witnessAsked, h, BitVec.getLsbD_eq_getElem]

/-- The script's reads change the host's record of answers and nothing else of the script (R44). -/
theorem runScript_reads (fuel : Nat) (x : ScriptRun) (reads : List Slot) (rest : List ScriptLine) :
    ∃ answers, runScript fuel x (reads.map (fun slot => .stmt (.rd slot)) ++ rest) =
      runScript fuel { x with block := { x.block with replies := answers } } rest := by
  induction reads generalizing x with
  | nil => exact ⟨x.block.replies, rfl⟩
  | cons slot reads ih =>
    have hread : runLine fuel x (.stmt (.rd slot)) = some { x with block := x.block.answerRead slot } := by
      simp [runLine, ScriptRun.access, Statement.event, State.happen_hostRead]
    obtain ⟨answers, hrest⟩ := ih { x with block := x.block.answerRead slot }
    refine ⟨answers, ?_⟩
    rw [List.map_cons, List.cons_append, runScript, hread]
    exact hrest

/-- A script of one line is that line. -/
theorem runScript_singleton (fuel : Nat) (x : ScriptRun) (line : ScriptLine) :
    runScript fuel x [line] = runLine fuel x line := by
  cases h : runLine fuel x line <;> simp [runScript, h]

/-- `WITNESS` after a `WAIT` that ended with `WREQ = 1`, in the hold: the hand-over (R117). -/
theorem runWitness_handOver {w : Word} {x : ScriptRun} (ha : x.witnessAsked = true) (hp : x.block.phase = .rmDraw) :
    runWitness w x = some { x with block := x.block.handOver w } := by
  simp [runWitness, ha, ScriptRun.access, State.happen_handOver hp]

/-- `WITNESS` after any other `WAIT`, or none, is not legal (R67). -/
theorem runWitness_refused {w : Word} {x : ScriptRun} (ha : x.witnessAsked = false) : runWitness w x = none := by
  simp [runWitness, ha]

end Sys2Proof.Machine
end

section
/-! SUPPORT. The family `30_encoding.md`: the statements it settles. -/

namespace Sys2Proof.Machine

/-- Settles O60: the reads after the `WAIT` touch neither the phase nor the `STATUS` it ended on, and the two agree on
whether the block holds. -/
theorem witnessIsLegalAfterItsWait : Obligations.WitnessIsLegalAfterItsWait := by
  intro fuel x y hwait
  obtain ⟨hend, hover⟩ := ScriptRun.wait_ends hwait
  have hasked : y.witnessAsked = y.block.statusWord[3] := ScriptRun.witnessAsked_of_waitEnd hend
  refine ⟨hend, waitOver_iff.1 hover, fun reads w => ?_⟩
  obtain ⟨answers, hscript⟩ := runScript_reads fuel y reads [.witness w]
  rw [hscript, runScript_singleton]
  refine ⟨fun hwreq => ?legal, fun hwreq => ?refused⟩
  case legal => exact ⟨_, runWitness_handOver (hasked.trans hwreq) (State.statusWord_wreq_iff.1 hwreq), rfl⟩
  case refused => exact runWitness_refused (hasked.trans hwreq)

/-- Settles O1: a legal word is one of the encoder's two, and a word with upper bits 0 is determined by its `op` field. -/
theorem commandWordLegality : Obligations.CommandWordLegality := by
  intro v
  have hone : v.extractLsb' 4 60 = 0#60 ∧ v.extractLsb' 0 4 = 1#4 ↔ v = 1#64 := command_fields_iff
  have htwo : v.extractLsb' 4 60 = 0#60 ∧ v.extractLsb' 0 4 = 2#4 ↔ v = 2#64 := command_fields_iff
  refine ⟨?_, ?_, ?_⟩
  · rw [and_or_left, hone, htwo]
    simp [decode, decodeCommand_eq_ok_iff, exists_or]
  · simp [decode, decodeCommand_eq_ok_iff]
  · simp [decode, decodeCommand_eq_ok_iff]

/-- Settles O2: the word is the encoder's, and the encoder's words are well formed. -/
theorem decodedWordIsTheEncoding : Obligations.DecodedWordIsTheEncoding := by
  intro e i h
  obtain rfl := encode_of_decode h
  obtain ⟨hinstr, hword, -⟩ := encodeDecode i
  exact ⟨rfl, hword, hinstr⟩

/-- Settles O3, word by word: the legal ones are the encoder's. -/
theorem specWordsDecode : Obligations.SpecWordsDecode := by
  exact ⟨decode_encode .expmod, decode_encode .rmtest, decode_encode .xMul, decode_encode .rmSqred, by decide, by decide,
    by decide⟩

/-- Settles O4: each of the three ways makes the instruction the fetched one, and every instruction has a next state. -/
theorem stepRunsTheSelectedInstruction : Obligations.StepRunsTheSelectedInstruction := by
  intro s i hsel
  have hf : s.fetch = some i := by
    obtain ⟨hturn, hd⟩ | ⟨v, rest, hpend, hd⟩ | ⟨w, rest, hpend, hp, rfl⟩ := hsel
    · exact State.fetch_phase (State.event_sequencer.2 hturn) hd
    · exact State.fetch_command (State.event_cons hpend) hd
    · exact State.fetch_witness (State.event_cons hpend) hp
  rw [step_of_fetch hf]
  refine ⟨fun t ht => moveOn_exec ht, fun f hfault => ?_, fun r hr => ?_⟩
  · rw [hfault]; rfl
  · rw [hr]; rfl

/-- Settles O12: both phases accept, and neither is `FAULT`. -/
theorem commandAcceptance : Obligations.CommandAcceptance := by
  intro s hp
  have ha : s.phase.accepts = true := Phase.accepts_iff.2 hp
  refine ⟨congrArg _ (s.giveCommand_accepted ha .exp .xStart), congrArg _ (s.giveCommand_accepted ha .rm .rmCheck),
    fun rest hpend => step_command_accepted ha hpend (decode_encode .expmod) rfl,
    fun rest hpend => step_command_accepted ha hpend (decode_encode .rmtest) rfl, fun hinv => ?_⟩
  have herr : s.err = .none := not_not.1 (mt hinv.faulted.2 (State.phase_ne_fault_of_accepts ha))
  exact ⟨herr, hinv.unfaulted herr⟩

/-- Settles O13: the word selects no command, and the block accepts. -/
theorem illegalCommandFaults : Obligations.IllegalCommandFaults := by
  intro s v rest hp h1 h2 hpend
  rw [step_illegalCommand (State.event_cons hpend) h1 h2, State.giveIllegalCommand_accepted (Phase.accepts_iff.2 hp),
    State.advance_eq (u := s.raiseFault .cmd) hpend]
  rfl

/-- Settles O14: outside the two phases the block takes no write to `CMD`. -/
theorem commandWhileBusyOrFaultedIsDropped : Obligations.CommandWhileBusyOrFaultedIsDropped := by
  intro s hidle hdone
  have ha : s.phase.accepts = false := Phase.accepts_eq_false_iff.2 ⟨hidle, hdone⟩
  refine ⟨congrArg _ (s.giveCommand_refused ha .exp .xStart), congrArg _ (s.giveCommand_refused ha .rm .rmCheck),
    fun v rest hpend => step_dropped hpend ?_⟩
  simp [State.takesWrite_iff_of_not_accepts ha]

end Sys2Proof.Machine
end

section
/-! SUPPORT. What `ModExp` answers (R92): its loop holds the powers of the reduced base, and stops at the first product
of `2^64` or more. -/

namespace Sys2Proof.Machine

/-! ### The loop of `ModExp` -/

/-- The multiplication of the `k`-th residue by the base `b` does not fit 64 bits (R96). -/
def Overflows (b n k : Nat) : Prop := 2 ^ 64 ≤ b ^ k % n * b

theorem overflows_iff {b n k : Nat} : Overflows b n k ↔ 2 ^ 64 ≤ b ^ k % n * b := Iff.rfl

theorem not_overflows_iff {b n k : Nat} : ¬ Overflows b n k ↔ b ^ k % n * b < 2 ^ 64 := Nat.not_le

/-- One multiplication takes the `j`-th residue to the next (R92). -/
theorem residue_succ (b n j : Nat) : b ^ j % n * b % n = b ^ (j + 1) % n := by rw [Nat.mod_mul_mod, Nat.pow_succ]

/-- The first residue is the base itself. -/
theorem base_residue (a n : Nat) : (a % n) ^ 1 % n = a % n := by rw [Nat.pow_one, Nat.mod_mod]

theorem modExpFrom_zero (b n r : Nat) : modExpFrom b n 0 r = .ok r := rfl

theorem modExpFrom_overflow {b n j : Nat} (h : Overflows b n j) (k : Nat) :
    modExpFrom b n (k + 1) (b ^ j % n) = .error .overflow := if_pos h

theorem modExpFrom_multiply {b n j : Nat} (h : ¬ Overflows b n j) (k : Nat) :
    modExpFrom b n (k + 1) (b ^ j % n) = modExpFrom b n k (b ^ (j + 1) % n) :=
  (if_neg h).trans (by rw [residue_succ])

/-- The loop from the `j`-th residue ends with the residue `k` multiplications later, if none of them overflows. -/
theorem modExpFrom_ok {b n k j : Nat} (h : ∀ i, j ≤ i → i < j + k → ¬ Overflows b n i) :
    modExpFrom b n k (b ^ j % n) = .ok (b ^ (j + k) % n) := by
  induction k generalizing j with
  | zero => exact modExpFrom_zero ..
  | succ k ih =>
    rw [modExpFrom_multiply (h j (Nat.le_refl j) (by omega)), ih fun i hji hik => h i (by omega) (by omega),
      Nat.add_right_comm, Nat.add_assoc]

/-- The loop from the `j`-th residue overflows, if any of its `k` multiplications does. -/
theorem modExpFrom_error {b n k j i : Nat} (hji : j ≤ i) (hik : i < j + k) (hov : Overflows b n i) :
    modExpFrom b n k (b ^ j % n) = .error .overflow := by
  induction k generalizing j with
  | zero => omega
  | succ k ih =>
    by_cases hj : Overflows b n j
    · exact modExpFrom_overflow hj k
    · have hne : j ≠ i := by rintro rfl; exact hj hov
      rw [modExpFrom_multiply hj]
      exact ih (by omega) (by omega)

/-! ### `ModExp` -/

theorem modExp_zero_modulus (a d : Nat) : modExp a d 0 = .error .nZero := rfl

theorem modExp_zero_exponent {n : Nat} (hn : n ≠ 0) (a : Nat) : modExp a 0 n = .ok (1 % n) := by
  have hone : (if n = 1 then 0 else 1) = 1 % n := by
    split
    · next h => rw [h]
    · next h => exact (Nat.mod_eq_of_lt (by omega)).symm
  simp [modExp, hn, hone]

/-- With a multiplication to do, `ModExp` is its loop from the first residue. -/
theorem modExp_pos_exponent {n d : Nat} (hn : n ≠ 0) (hd : d ≠ 0) (a : Nat) :
    modExp a d n = modExpFrom (a % n) n (d - 1) ((a % n) ^ 1 % n) := by
  simp [modExp, hn, hd]

/-- `ModExp` answers the power if none of its `d - 1` multiplications overflows. -/
theorem modExp_ok {a d n : Nat} (hn : n ≠ 0) (h : ∀ k, 1 ≤ k → k < d → ¬ Overflows (a % n) n k) :
    modExp a d n = .ok (a ^ d % n) := by
  by_cases hd : d = 0
  · rw [hd, modExp_zero_exponent hn, Nat.pow_zero]
  · have hone : 1 + (d - 1) = d := by omega
    rw [modExp_pos_exponent hn hd, modExpFrom_ok (fun k h1 hk => h k h1 (by omega)), hone, ← Nat.pow_mod]

/-- `ModExp` overflows if any of its `d - 1` multiplications does. -/
theorem modExp_overflow {a d n k : Nat} (hn : n ≠ 0) (h1 : 1 ≤ k) (hk : k < d) (hov : Overflows (a % n) n k) :
    modExp a d n = .error .overflow := by
  rw [modExp_pos_exponent hn (by omega)]
  exact modExpFrom_error h1 (by omega) hov

/-- EVERYTHING `ModExp` CAN ANSWER. With a nonzero modulus, the power, when no multiplication overflows; or
`ERR_OVERFLOW`, at a first multiplication that does. -/
theorem modExp_cases {n : Nat} (hn : n ≠ 0) (a d : Nat) :
    (modExp a d n = .ok (a ^ d % n) ∧ ∀ k, 1 ≤ k → k < d → ¬ Overflows (a % n) n k) ∨
    (modExp a d n = .error .overflow ∧ ∃ k, 1 ≤ k ∧ k < d ∧ Overflows (a % n) n k ∧
      ∀ j, 1 ≤ j → j < k → ¬ Overflows (a % n) n j) := by
  classical
  by_cases h : ∃ k, 1 ≤ k ∧ k < d ∧ Overflows (a % n) n k
  · obtain ⟨h1, hk, hov⟩ := Nat.find_spec h
    exact .inr ⟨modExp_overflow hn h1 hk hov, Nat.find h, h1, hk, hov,
      fun j hj1 hj hjov => Nat.find_min h hj ⟨hj1, hj.trans hk, hjov⟩⟩
  · have hnone : ∀ k, 1 ≤ k → k < d → ¬ Overflows (a % n) n k := fun k h1 hk hov => h ⟨k, h1, hk, hov⟩
    exact .inl ⟨modExp_ok hn hnone, hnone⟩

/-! ### Bounds under which no product overflows -/

/-- Two residues of a modulus of at most `2^32` have a product below `2^64` (R95). -/
theorem not_overflows_of_modulus_le {n : Nat} (hpos : 0 < n) (hle : n ≤ 2 ^ 32) (a k : Nat) :
    ¬ Overflows (a % n) n k := by
  refine not_overflows_iff.2 ?_
  calc (a % n) ^ k % n * (a % n) < 2 ^ 32 * 2 ^ 32 :=
        Nat.mul_lt_mul'' ((Nat.mod_lt _ hpos).trans_le hle) ((Nat.mod_lt _ hpos).trans_le hle)
    _ = 2 ^ 64 := by rw [← Nat.pow_add]

/-- A residue times a base of at most 1 is no larger than the residue (R96). -/
theorem not_overflows_of_base_le_one {b n : Nat} (hpos : 0 < n) (hlt : n < 2 ^ 64) (hb : b ≤ 1) (k : Nat) :
    ¬ Overflows b n k :=
  not_overflows_iff.2 <|
    calc b ^ k % n * b ≤ b ^ k % n * 1 := Nat.mul_le_mul_left _ hb
      _ = b ^ k % n := Nat.mul_one _
      _ < n := Nat.mod_lt _ hpos
      _ < 2 ^ 64 := hlt

end Sys2Proof.Machine
end

section
/-! SUPPORT. The micro-steps of the exponentiator, branch by branch, and the two reductions as runs (R81 to R84). -/

namespace Sys2Proof.Machine

/-! ### Words and numbers -/

/-- A difference that does not borrow, as a number (R90). -/
theorem sub_eq_ofNat {x n : Word} (h : n.toNat ≤ x.toNat) : x - n = BitVec.ofNat 64 (x.toNat - n.toNat) := by
  rw [← BitVec.toNat_sub_of_le (BitVec.le_def.2 h), BitVec.ofNat_toNat, BitVec.setWidth_eq]

/-- The predecessor of a nonzero word, as a number. -/
theorem pred_eq_ofNat {x : Word} (h : x ≠ 0#64) : x - 1#64 = BitVec.ofNat 64 (x.toNat - 1) :=
  sub_eq_ofNat (n := 1#64) (toNat_pos h)

/-- A residue of a word's value is the value of a word. -/
theorem toNat_ofNat_mod {n : Word} (hn : 0 < n.toNat) (x : Nat) : (BitVec.ofNat 64 (x % n.toNat)).toNat = x % n.toNat := by
  rw [BitVec.toNat_ofNat, Nat.mod_eq_of_lt ((Nat.mod_lt x hn).trans n.isLt)]

/-- What `X_START` answers for the exponent zero is `1 mod N` (R81). -/
theorem one_mod_eq_ite {n : Word} (hn : n ≠ 0#64) :
    BitVec.ofNat 64 (1 % n.toNat) = if n = 1#64 then 0#64 else 1#64 := by
  split
  · next h => rw [h]; rfl
  · next h =>
    have hpos := toNat_pos hn
    have hne := toNat_ne_one h
    rw [Nat.mod_eq_of_lt (by omega)]

/-- Bits 127:64 of the 128-bit product of two words, as a number (R85). -/
theorem highHalf_toNat (r a : Word) :
    ((r.setWidth 128 * a.setWidth 128).extractLsb' 64 64).toNat = r.toNat * a.toNat / 2 ^ 64 := by
  have hlt : r.toNat * a.toNat < 2 ^ 64 * 2 ^ 64 := Nat.mul_lt_mul'' r.isLt a.isLt
  have hprod : (r.setWidth 128 * a.setWidth 128).toNat = r.toNat * a.toNat := by
    rw [BitVec.toNat_mul, BitVec.toNat_setWidth_of_le (by omega), BitVec.toNat_setWidth_of_le (by omega),
      Nat.mod_eq_of_lt (hlt.trans_eq (Nat.pow_add 2 64 64).symm)]
  rw [BitVec.extractLsb'_toNat, hprod, Nat.shiftRight_eq_div_pow, Nat.mod_eq_of_lt (Nat.div_lt_of_lt_mul hlt)]

/-! ### The micro-steps, branch by branch -/

theorem execXStart_zero_modulus {s : State} (hN : s.N = 0#64) : execXStart s = .next (s.raiseFault .nZero) := by
  obtain ⟨-, e⟩ | ⟨hN', -⟩ | ⟨hN', -⟩ := execXStart_cases s
  · exact e
  all_goals exact absurd hN hN'

theorem execXStart_zero_exponent {s : State} (hN : s.N ≠ 0#64) (hD : s.D = 0#64) :
    execXStart s = .next (State.xexit { s with R := if s.N = 1#64 then 0#64 else 1#64 }) := by
  obtain ⟨hN', -⟩ | ⟨-, -, e⟩ | ⟨-, hD', -⟩ := execXStart_cases s
  · exact absurd hN' hN
  · exact e
  · exact absurd hD hD'

theorem execXStart_reduce {s : State} (hN : s.N ≠ 0#64) (hD : s.D ≠ 0#64) :
    execXStart s = .next { s with phase := .xReda } := by
  obtain ⟨hN', -⟩ | ⟨-, hD', -⟩ | ⟨-, -, e⟩ := execXStart_cases s
  · exact absurd hN' hN
  · exact absurd hD' hD
  · exact e

theorem execXReda_subtract {s : State} (h : s.N.toNat ≤ s.A.toNat) : execXReda s = .next { s with A := s.A - s.N } := by
  obtain ⟨-, e⟩ | ⟨hlt, -⟩ := execXReda_cases s
  · exact e
  · exact absurd h (Nat.not_le.2 hlt)

theorem execXReda_leave {s : State} (h : s.A.toNat < s.N.toNat) :
    execXReda s = .next { s with R := s.A, CNT := s.D - 1#64, phase := .xMul } := by
  obtain ⟨hle, -⟩ | ⟨-, e⟩ := execXReda_cases s
  · exact absurd h (Nat.not_lt.2 hle)
  · exact e

theorem execXMul_leave {s : State} (hC : s.CNT = 0#64) : execXMul s = .next s.xexit := by
  obtain ⟨-, e⟩ | ⟨hC', -⟩ | ⟨hC', -⟩ := execXMul_cases s
  · exact e
  all_goals exact absurd hC hC'

theorem execXMul_overflow {s : State} (hC : s.CNT ≠ 0#64) (h : 2 ^ 64 ≤ s.R.toNat * s.A.toNat) :
    execXMul s = .next (s.raiseFault .overflow) := by
  obtain ⟨hC', -⟩ | ⟨-, -, e⟩ | ⟨-, hlt, -⟩ := execXMul_cases s
  · exact absurd hC' hC
  · exact e
  · exact absurd h (Nat.not_le.2 hlt)

theorem execXMul_multiply {s : State} (hC : s.CNT ≠ 0#64) (h : s.R.toNat * s.A.toNat < 2 ^ 64) :
    execXMul s =
      .next { s with R := BitVec.ofNat 64 (s.R.toNat * s.A.toNat), CNT := s.CNT - 1#64, phase := .xRedr } := by
  obtain ⟨hC', -⟩ | ⟨-, hge, -⟩ | ⟨-, -, e⟩ := execXMul_cases s
  · exact absurd hC' hC
  · exact absurd h (Nat.not_lt.2 hge)
  · exact e

theorem execXRedr_subtract {s : State} (h : s.N.toNat ≤ s.R.toNat) : execXRedr s = .next { s with R := s.R - s.N } := by
  obtain ⟨-, e⟩ | ⟨hlt, -⟩ := execXRedr_cases s
  · exact e
  · exact absurd h (Nat.not_le.2 hlt)

theorem execXRedr_leave {s : State} (h : s.R.toNat < s.N.toNat) : execXRedr s = .next { s with phase := .xMul } := by
  obtain ⟨hle, -⟩ | ⟨-, e⟩ := execXRedr_cases s
  · exact absurd h (Nat.not_lt.2 hle)
  · exact e

/-- Where `xexit` goes in each mode (R86). -/
theorem State.xexit_exp {s : State} (hm : s.mode = .exp) : s.xexit = { s with phase := .done } := by
  simp [State.xexit, hm]

theorem State.xexit_rm {s : State} (hm : s.mode = .rm) : s.xexit = { s with phase := .rmFirst } := by
  simp [State.xexit, hm]

/-! ### Steps with an empty schedule -/

/-- There is nothing to move past. -/
theorem State.advance_nil {s : State} (h : s.pending = []) : s.advance = s :=
  congrArg (fun p => { s with pending := p }) (by rw [h]; rfl : s.pending.tail = s.pending)

/-- A step moves past one event and schedules none. -/
theorem step_pending {s t : State} (h : step s = .next t) : t.pending = s.pending.tail := by
  obtain ⟨u, hu, rfl⟩ := transition_of_step h
  suffices hkeep : u.pending = s.pending from congrArg List.tail hkeep
  cases hu with
  | idleTurn | hostRead | reset => rfl
  | microStep _ _ _ hexec => exact exec_pending hexec
  | hostWrite _ hw => cases hw <;> rfl

/-- With nothing pending, a step is the meaning of the micro-step whose code `phase` holds (R65). -/
theorem step_microStep {s t : State} {i : Instr} {p : Phase} (hpend : s.pending = []) (hp : s.phase = p)
    (hcode : encode i = .phaseCode p.code) (h : exec i s = .next t) : step s = .next t := by
  have hd : decode (.phaseCode s.phase.code) = .ok i := by rw [hp, ← hcode, decode_encode]
  rw [step_of_fetch (State.fetch_phase (State.event_nil hpend) hd), h]
  exact congrArg _ (State.advance_nil ((exec_pending h).trans hpend))

/-! ### The reduction by repeated subtraction -/

/-- A loop that subtracts `n` from one register while it can takes `floor(x / n)` steps, and leaves `x mod n` there
(R82, R84). -/
theorem runs_reduction {n : Word} (hn : 0 < n.toNat) (f : Word → State)
    (hstep : ∀ x : Word, n.toNat ≤ x.toNat → step (f x) = .next (f (x - n))) (x : Word) :
    Runs (x.toNat / n.toNat) (f x) (f (BitVec.ofNat 64 (x.toNat % n.toNat))) := by
  induction hk : x.toNat / n.toNat generalizing x with
  | zero =>
    have hlt : x.toNat < n.toNat := (Nat.div_eq_zero_iff_lt hn).1 hk
    rw [Nat.mod_eq_of_lt hlt, BitVec.ofNat_toNat, BitVec.setWidth_eq]
    exact runs_zero _
  | succ k ih =>
    have hle : n.toNat ≤ x.toNat := Nat.not_lt.1 fun hlt => by rw [Nat.div_eq_of_lt hlt] at hk; omega
    have hsub : (x - n).toNat = x.toNat - n.toNat := BitVec.toNat_sub_of_le (BitVec.le_def.2 hle)
    have hdiv : (x - n).toNat / n.toNat = k := by
      have := Nat.div_eq_sub_div hn hle
      rw [hsub]
      omega
    rw [← toNat_sub_mod hle]
    exact runs_of_step (hstep x hle) (ih (x - n) hdiv)

/-- The reduction of the base (R82). -/
theorem runs_xReda {s : State} (hp : s.phase = .xReda) (hpend : s.pending = []) (hN : 0 < s.N.toNat) :
    Runs (s.A.toNat / s.N.toNat) s { s with A := BitVec.ofNat 64 (s.A.toNat % s.N.toNat) } :=
  runs_reduction hN (fun x => { s with A := x })
    (fun x hle => step_microStep (i := .xReda) hpend hp rfl (execXReda_subtract (s := { s with A := x }) hle)) s.A

/-- The reduction of the product (R84). -/
theorem runs_xRedr {s : State} (hp : s.phase = .xRedr) (hpend : s.pending = []) (hN : 0 < s.N.toNat) :
    Runs (s.R.toNat / s.N.toNat) s { s with R := BitVec.ofNat 64 (s.R.toNat % s.N.toNat) } :=
  runs_reduction hN (fun x => { s with R := x })
    (fun x hle => step_microStep (i := .xRedr) hpend hp rfl (execXRedr_subtract (s := { s with R := x }) hle)) s.R

end Sys2Proof.Machine
end

section
/-! SUPPORT. The exponentiator as a run from `X_START`, in either mode (R87, R88, R93, R185). -/

namespace Sys2Proof.Machine

/-! ### One turn of each loop -/

/-- The reduction of the base, and the step that sets up the multiplications (R82). -/
theorem runs_reduceBase {s : State} (hp : s.phase = .xReda) (hpend : s.pending = []) (hN : 0 < s.N.toNat) :
    Runs (s.A.toNat / s.N.toNat + 1) s
      { s with
        A := BitVec.ofNat 64 (s.A.toNat % s.N.toNat), R := BitVec.ofNat 64 (s.A.toNat % s.N.toNat), CNT := s.D - 1#64,
        phase := .xMul } := by
  have hlt : (BitVec.ofNat 64 (s.A.toNat % s.N.toNat)).toNat < s.N.toNat :=
    (toNat_ofNat_mod hN _).trans_lt (Nat.mod_lt _ hN)
  exact runs_trans (runs_xReda hp hpend hN) (runs_one (step_microStep (i := .xReda) hpend hp rfl
    (execXReda_leave (s := { s with A := BitVec.ofNat 64 (s.A.toNat % s.N.toNat) }) hlt)))

/-- The reduction of the product, and the step back to the loop head (R84). -/
theorem runs_reduceProduct {s : State} (hp : s.phase = .xRedr) (hpend : s.pending = []) (hN : 0 < s.N.toNat) :
    Runs (s.R.toNat / s.N.toNat + 1) s { s with R := BitVec.ofNat 64 (s.R.toNat % s.N.toNat), phase := .xMul } := by
  have hlt : (BitVec.ofNat 64 (s.R.toNat % s.N.toNat)).toNat < s.N.toNat :=
    (toNat_ofNat_mod hN _).trans_lt (Nat.mod_lt _ hN)
  exact runs_trans (runs_xRedr hp hpend hN) (runs_one (step_microStep (i := .xRedr) hpend hp rfl
    (execXRedr_leave (s := { s with R := BitVec.ofNat 64 (s.R.toNat % s.N.toNat) }) hlt)))

/-- A multiplication whose product fits, with its reduction (R83, R84). -/
theorem runs_multiply {s : State} (hp : s.phase = .xMul) (hpend : s.pending = []) (hN : 0 < s.N.toNat)
    (hC : s.CNT ≠ 0#64) (hfit : s.R.toNat * s.A.toNat < 2 ^ 64) :
    Runs (2 + s.R.toNat * s.A.toNat / s.N.toNat) s
      { s with
        R := BitVec.ofNat 64 (s.R.toNat * s.A.toNat % s.N.toNat), CNT := s.CNT - 1#64, phase := .xMul } := by
  have hmul := step_microStep (i := .xMul) hpend hp rfl (execXMul_multiply hC hfit)
  have hred := runs_of_step hmul (runs_reduceProduct rfl hpend hN)
  have hkept : (BitVec.ofNat 64 (s.R.toNat * s.A.toNat)).toNat = s.R.toNat * s.A.toNat :=
    (BitVec.toNat_ofNat ..).trans (Nat.mod_eq_of_lt hfit)
  simp only [hkept] at hred
  rwa [Nat.add_comm 2]

/-! ### The multiply loop -/

/-- The loop head of the exponentiation of `s` at the `k`-th residue (R87): the base reduced, `b^k mod N` in `R`, `D - k`
multiplications to do. -/
def State.multiplyHead (s : State) (k : Nat) : State :=
  { s with
    A := BitVec.ofNat 64 (s.A.toNat % s.N.toNat), R := BitVec.ofNat 64 ((s.A.toNat % s.N.toNat) ^ k % s.N.toNat),
    CNT := BitVec.ofNat 64 (s.D.toNat - k), phase := .xMul }

/-- The product that the multiplication at a loop head forms. -/
theorem State.multiplyHead_product {s : State} (hN : 0 < s.N.toNat) (k : Nat) :
    (s.multiplyHead k).R.toNat * (s.multiplyHead k).A.toNat =
      (s.A.toNat % s.N.toNat) ^ k % s.N.toNat * (s.A.toNat % s.N.toNat) :=
  congrArg₂ _ (toNat_ofNat_mod hN _) (toNat_ofNat_mod hN _)

theorem State.multiplyHead_CNT_toNat (s : State) (k : Nat) : (s.multiplyHead k).CNT.toNat = s.D.toNat - k :=
  (BitVec.toNat_ofNat ..).trans (Nat.mod_eq_of_lt ((Nat.sub_le ..).trans_lt s.D.isLt))

/-- Before the last residue there is a multiplication to do. -/
theorem State.multiplyHead_CNT_ne_zero {s : State} {k : Nat} (hk : k < s.D.toNat) : (s.multiplyHead k).CNT ≠ 0#64 := by
  intro h
  have hsub : (0#64).toNat = s.D.toNat - k := h ▸ s.multiplyHead_CNT_toNat k
  exact absurd hsub (Nat.ne_of_lt (Nat.sub_pos_of_lt hk))

/-- The next loop head: one more multiplication in `R`, one fewer in `CNT`. -/
theorem State.multiplyHead_succ {s : State} (hN : 0 < s.N.toNat) {k : Nat} (hk : k < s.D.toNat) :
    { s.multiplyHead k with
      R := BitVec.ofNat 64 ((s.multiplyHead k).R.toNat * (s.multiplyHead k).A.toNat % s.N.toNat),
      CNT := (s.multiplyHead k).CNT - 1#64, phase := .xMul } = s.multiplyHead (k + 1) := by
  have hcnt : (s.multiplyHead k).CNT - 1#64 = BitVec.ofNat 64 (s.D.toNat - (k + 1)) := by
    rw [pred_eq_ofNat (State.multiplyHead_CNT_ne_zero hk), State.multiplyHead_CNT_toNat, Nat.sub_sub]
  rw [hcnt, State.multiplyHead_product hN, residue_succ]
  rfl

/-- From `X_START` to the first loop head. -/
theorem runs_to_multiplyHead {s : State} (hp : s.phase = .xStart) (hpend : s.pending = []) (hN : s.N ≠ 0#64)
    (hD : s.D ≠ 0#64) : Runs (2 + s.A.toNat / s.N.toNat) s (s.multiplyHead 1) := by
  have hstart := step_microStep (i := .xStart) hpend hp rfl (execXStart_reduce hN hD)
  have hbase := runs_of_step hstart (runs_reduceBase rfl hpend (toNat_pos hN))
  rw [Nat.add_comm 2, State.multiplyHead, base_residue, ← pred_eq_ofNat hD]
  exact hbase

/-- `k` multiplications that fit take the loop from the `j`-th residue to the one `k` later, in the micro-steps R185
counts. -/
theorem runs_multiplyHead {s : State} (hpend : s.pending = []) (hN : 0 < s.N.toNat) {j k : Nat}
    (hD : j + k ≤ s.D.toNat) (hfit : ∀ i, j ≤ i → i < j + k → ¬ Overflows (s.A.toNat % s.N.toNat) s.N.toNat i) :
    Runs (multiplySteps (s.A.toNat % s.N.toNat) s.N.toNat k ((s.A.toNat % s.N.toNat) ^ j % s.N.toNat))
      (s.multiplyHead j) (s.multiplyHead (j + k)) := by
  induction k generalizing j with
  | zero => exact runs_zero _
  | succ k ih =>
    have hlt : j < s.D.toNat := by omega
    have hone := runs_multiply (s := s.multiplyHead j) rfl hpend hN (State.multiplyHead_CNT_ne_zero hlt)
      ((State.multiplyHead_product hN j).trans_lt (not_overflows_iff.1 (hfit j (Nat.le_refl j) (by omega))))
    have hrest := ih (j := j + 1) (by omega) fun i hji hik => hfit i (by omega) (by omega)
    rw [State.multiplyHead_product hN, show (s.multiplyHead j).N = s.N from rfl] at hone
    rw [multiplySteps, residue_succ, show j + (k + 1) = j + 1 + k by omega]
    refine runs_trans ?_ hrest
    rw [← State.multiplyHead_succ hN hlt, State.multiplyHead_product hN]
    exact hone

/-! ### The whole exponentiation -/

theorem expmodSteps_zero_modulus (a d : Nat) : expmodSteps a d 0 = 1 := rfl

theorem expmodSteps_zero_exponent (a n : Nat) : expmodSteps a 0 n = 1 := if_pos (.inr rfl)

theorem expmodSteps_pos {d n : Nat} (hn : n ≠ 0) (hd : d ≠ 0) (a : Nat) :
    expmodSteps a d n = 3 + a / n + multiplySteps (a % n) n (d - 1) (a % n) := if_neg (not_or.2 ⟨hn, hd⟩)

/-- An exponentiation that does not overflow leaves by `xexit` with the power in `R` (R88); for the exponent zero it
writes `R` alone. -/
theorem runs_exponentiation {s : State} (hp : s.phase = .xStart) (hpend : s.pending = []) (hN : s.N ≠ 0#64)
    (hfit : ∀ k, 1 ≤ k → k < s.D.toNat → ¬ Overflows (s.A.toNat % s.N.toNat) s.N.toNat k) :
    Runs (expmodSteps s.A.toNat s.D.toNat s.N.toNat) s
      (State.xexit
        { s with
          R := BitVec.ofNat 64 (s.A.toNat ^ s.D.toNat % s.N.toNat),
          A := if s.D = 0#64 then s.A else BitVec.ofNat 64 (s.A.toNat % s.N.toNat),
          CNT := if s.D = 0#64 then s.CNT else 0#64 }) := by
  by_cases hD : s.D = 0#64
  · have hstep := step_microStep (i := .xStart) hpend hp rfl (execXStart_zero_exponent hN hD)
    have hzero : s.D.toNat = 0 := by rw [hD]; rfl
    rw [if_pos hD, if_pos hD, hzero, Nat.pow_zero, one_mod_eq_ite hN, expmodSteps_zero_exponent]
    exact runs_one hstep
  · have hNpos := toNat_pos hN
    have hDpos := toNat_pos hD
    have hlast : 1 + (s.D.toNat - 1) = s.D.toNat := by omega
    have hmul := runs_multiplyHead (j := 1) hpend hNpos hlast.le fun i h1 hi => hfit i h1 (by omega)
    rw [hlast, base_residue] at hmul
    have hcnt : (s.multiplyHead s.D.toNat).CNT = 0#64 :=
      BitVec.eq_of_toNat_eq ((s.multiplyHead_CNT_toNat _).trans (Nat.sub_self _))
    have hleave := step_microStep (s := s.multiplyHead s.D.toNat) (i := .xMul) hpend rfl rfl (execXMul_leave hcnt)
    have hall := runs_trans (runs_to_multiplyHead hp hpend hN hD) (runs_trans hmul (runs_one hleave))
    rw [expmodSteps_pos hNpos.ne' hDpos.ne', if_neg hD, if_neg hD, Nat.pow_mod, ← hcnt]
    convert hall using 1
    · omega
    · rfl

/-- An exponentiation whose `k`-th multiplication is the first to overflow faults there, at its loop head (R93). -/
theorem runs_exponentiation_overflow {s : State} (hp : s.phase = .xStart) (hpend : s.pending = []) (hN : s.N ≠ 0#64)
    {k : Nat} (h1 : 1 ≤ k) (hk : k < s.D.toNat)
    (hfit : ∀ j, 1 ≤ j → j < k → ¬ Overflows (s.A.toNat % s.N.toNat) s.N.toNat j)
    (hov : Overflows (s.A.toNat % s.N.toNat) s.N.toNat k) :
    Runs (expmodOverflowSteps s.A.toNat k s.N.toNat) s ((s.multiplyHead k).raiseFault .overflow) := by
  have hNpos := toNat_pos hN
  have hD : s.D ≠ 0#64 := by rintro h; rw [h] at hk; exact absurd hk (Nat.not_lt_zero k)
  have hlast : 1 + (k - 1) = k := by omega
  have hmul := runs_multiplyHead (j := 1) hpend hNpos (hlast.trans_le hk.le) fun i h1 hi => hfit i h1 (by omega)
  rw [hlast, base_residue] at hmul
  have hfault := step_microStep (s := s.multiplyHead k) (i := .xMul) hpend rfl rfl
    (execXMul_overflow (State.multiplyHead_CNT_ne_zero hk)
      ((overflows_iff.1 hov).trans_eq (State.multiplyHead_product hNpos k).symm))
  exact runs_trans (runs_trans (runs_to_multiplyHead hp hpend hN hD) hmul) (runs_one hfault)

end Sys2Proof.Machine
end

section
/-! SUPPORT. Where a run ends (R93): the block at rest in `DONE` or `FAULT`, and what it then answers. -/

namespace Sys2Proof.Machine

/-! ### A state that no turn changes -/

theorem runs_of_fixed {s : State} (h : step s = .next s) (k : Nat) : Runs k s s := by
  induction k with
  | zero => exact runs_zero s
  | succ k ih => exact runs_of_step h ih

/-- A run comes to rest in one state only, whenever it is looked at. -/
theorem runs_fixed_unique {j k : Nat} {s t u : State} (hj : Runs j s t) (ht : step t = .next t) (hk : Runs k s u)
    (hu : step u = .next u) : t = u :=
  runs_unique (runs_trans hj (runs_of_fixed ht k)) (Nat.add_comm k j ▸ runs_trans hk (runs_of_fixed hu j))

/-- With nothing pending, nothing comes to be. -/
theorem runs_pending_nil {k : Nat} {s t : State} (hpend : s.pending = []) (h : Runs k s t) : t.pending = [] := by
  induction k generalizing s with
  | zero => rw [runs_zero_iff.1 h, hpend]
  | succ k ih =>
    obtain ⟨u, hu, hr⟩ := runs_succ.1 h
    exact ih (by rw [step_pending hu, hpend]; rfl) hr

/-! ### What the block answers -/

/-- What a command has come to: the residue in `DONE`, the fault code in `FAULT`, nothing yet elsewhere. -/
def State.answer (s : State) : Option (Except ErrCode Nat) :=
  match s.phase with
  | .done => some (.ok s.R.toNat)
  | .fault => some (.error s.err)
  | _ => none

theorem State.answer_ok_iff {s : State} {r : Nat} : s.answer = some (.ok r) ↔ s.phase = .done ∧ s.R.toNat = r := by
  unfold State.answer; split <;> simp_all

theorem State.answer_error_iff {s : State} {c : ErrCode} :
    s.answer = some (.error c) ↔ s.phase = .fault ∧ s.err = c := by
  unfold State.answer; split <;> simp_all

/-- A state with an answer and nothing pending is at rest (R6). -/
theorem step_of_answer {s : State} {o : Except ErrCode Nat} (hpend : s.pending = []) (h : s.answer = some o) :
    step s = .next s := by
  have hp : s.phase = .idle ∨ s.phase = .rmDraw ∨ s.phase = .done ∨ s.phase = .fault := by
    cases o with
    | ok r => exact .inr (.inr (.inl (State.answer_ok_iff.1 h).1))
    | error c => exact .inr (.inr (.inr (State.answer_error_iff.1 h).1))
  rw [step_turn_without_step (State.event_nil hpend) hp, State.advance_nil hpend]

end Sys2Proof.Machine
end

section
/-! SUPPORT. The family `40_modexp.md`: the statements it settles. -/

namespace Sys2Proof.Machine

/-- The block after the step of an accepted `EXPMOD` with nothing pending after it (R62). -/
def State.expmodStarted (s : State) : State :=
  { s with verdict := false, mode := .exp, phase := .xStart, pending := [] }

/-- A run of an accepted `EXPMOD` is the command's step and the run from `X_START`. -/
theorem runs_expmod {s t : State} {k : Nat} (hp : s.phase = .idle ∨ s.phase = .done)
    (hpend : s.pending = [.hostWrite .cmd 0x1#64])
    (h : Runs k s.expmodStarted t) : Runs (1 + k) s t := by
  have hcmd := step_command_accepted (Phase.accepts_iff.2 hp) hpend (decode_encode .expmod) (execExpmod_eq s)
  rw [Nat.add_comm]
  exact runs_of_step hcmd h

/-- Settles O46: the command's step and the exponentiation in mode `EXP`; by `modExp_cases` an `Ok` means that no
multiplication overflows. -/
theorem expmodRunsToItsResult : Obligations.ExpmodRunsToItsResult := by
  intro s r hp hpend hok
  have hN : s.N ≠ 0#64 := by rintro h; rw [h] at hok; cases hok
  obtain ⟨-, hfit⟩ | ⟨herr, -⟩ := modExp_cases (toNat_pos hN).ne' s.A.toNat s.D.toNat
  · exact runs_expmod hp hpend (runs_exponentiation (s := s.expmodStarted) rfl rfl hN hfit)
  · cases herr.symm.trans hok

/-- Settles O47: the command's step, then the first test of `X_START`, or the loop up to the multiplication that
overflows. -/
theorem expmodRunsToItsFault : Obligations.ExpmodRunsToItsFault := by
  intro s hp hpend
  refine ⟨fun hN => runs_expmod hp hpend ?zeroModulus, fun k hN h1 hk hfit hov => runs_expmod hp hpend ?overflow⟩
  case zeroModulus =>
    have hsteps : expmodSteps s.A.toNat s.D.toNat s.N.toNat = 1 := by rw [hN]; exact expmodSteps_zero_modulus ..
    rw [hsteps]
    exact runs_one (step_microStep (i := .xStart) rfl rfl rfl (execXStart_zero_modulus hN))
  case overflow =>
    exact runs_exponentiation_overflow (s := s.expmodStarted) rfl rfl hN h1 hk
      (fun j hj1 hjk => not_overflows_iff.2 (hfit j hj1 hjk)) hov

/-- Every accepted `EXPMOD` comes to the answer of `ModExp`, by the three ends of O46 and O47. -/
theorem expmod_runs_to_answer {s : State} (hp : s.phase = .idle ∨ s.phase = .done)
    (hpend : s.pending = [.hostWrite .cmd 0x1#64]) :
    ∃ k t, Runs (1 + k) s t ∧ t.answer = some (modExp s.A.toNat s.D.toNat s.N.toNat) := by
  obtain ⟨hzero, hoverflow⟩ := expmodRunsToItsFault s hp hpend
  by_cases hN : s.N = 0#64
  · have hend : modExp s.A.toNat s.D.toNat s.N.toNat = .error .nZero := by rw [hN]; rfl
    exact ⟨_, _, hzero hN, hend ▸ rfl⟩
  · have hNpos := toNat_pos hN
    obtain ⟨hend, -⟩ | ⟨hend, k, h1, hk, hov, hfit⟩ := modExp_cases hNpos.ne' s.A.toNat s.D.toNat
    · refine ⟨_, _, expmodRunsToItsResult s _ hp hpend hend, hend ▸ ?_⟩
      exact State.answer_ok_iff.2 ⟨rfl, toNat_ofNat_mod hNpos _⟩
    · exact ⟨_, _, hoverflow k hN h1 hk (fun j hj1 hjk => not_overflows_iff.1 (hfit j hj1 hjk)) hov,
        hend ▸ rfl⟩

/-- The machine answers what `ModExp` answers, and nothing else: it comes to rest in one state only. -/
theorem expmod_answer_iff {s : State} (hp : s.phase = .idle ∨ s.phase = .done)
    (hpend : s.pending = [.hostWrite .cmd 0x1#64]) (o : Except ErrCode Nat) :
    (∃ k t, 1 ≤ k ∧ Runs k s t ∧ t.answer = some o) ↔ modExp s.A.toNat s.D.toNat s.N.toNat = o := by
  have hrest : ∀ {k : Nat} {t : State}, Runs (1 + k) s t → t.pending = [] := fun h => by
    rw [Nat.add_comm] at h
    obtain ⟨u, hu, hr⟩ := runs_succ.1 h
    exact runs_pending_nil (by rw [step_pending hu, hpend]; rfl) hr
  obtain ⟨m, u, hm, hu⟩ := expmod_runs_to_answer hp hpend
  constructor
  · rintro ⟨k, t, hk, hr, ht⟩
    obtain ⟨k, rfl⟩ := Nat.exists_eq_add_of_le hk
    obtain rfl : t = u := runs_fixed_unique hr (step_of_answer (hrest hr) ht) hm (step_of_answer (hrest hm) hu)
    exact Option.some.inj (hu.symm.trans ht)
  · rintro rfl
    exact ⟨1 + m, u, by omega, hm, hu⟩

/-- Settles O48: both clauses are `expmod_answer_iff`, at a result and at a fault. -/
theorem expmodViewsAgree : Obligations.ExpmodViewsAgree := by
  intro s hp hpend
  exact ⟨fun r => by simpa only [State.answer_ok_iff] using expmod_answer_iff hp hpend (.ok r),
    fun c => by simpa only [State.answer_error_iff] using expmod_answer_iff hp hpend (.error c)⟩

/-- Settles O43: with a zero modulus there is no answer, and otherwise no other answer than the power. -/
theorem modExpIsThePower : Obligations.ModExpIsThePower := by
  intro a d n r h
  by_cases hn : n = 0
  · rw [hn, modExp_zero_modulus] at h; cases h
  · obtain ⟨hok, -⟩ | ⟨herr, -⟩ := modExp_cases hn a d
    · exact (Except.ok.inj (hok.symm.trans h)).symm
    · cases herr.symm.trans h

/-- Settles O44: two residues of such a modulus have a product that fits; for `2^32 + 1` the first product is `2^64`. -/
theorem modExpBelowBoundNeverOverflows : Obligations.ModExpBelowBoundNeverOverflows := by
  refine ⟨fun a d n hpos hle => ?_, ?_⟩
  · exact ⟨_, modExp_ok hpos.ne' fun k _ _ => not_overflows_of_modulus_le hpos hle a k⟩
  · exact modExp_overflow (k := 1) (by decide) (by decide) (by decide) (overflows_iff.2 (by decide))

/-- Settles O45: `modExp_cases` read as an equivalence, and the two cases with no product, or no product above a residue. -/
theorem modExpOverflowCondition : Obligations.ModExpOverflowCondition := by
  refine ⟨fun a d n hpos hd => ⟨fun herr => ?first, ?overflows⟩, fun a d n hpos hlt hsmall => ?small⟩
  case first =>
    obtain ⟨hok, -⟩ | ⟨-, k, h1, hk, hov, -⟩ := modExp_cases hpos.ne' a d
    · cases hok.symm.trans herr
    · exact ⟨k, h1, by omega, hov⟩
  case overflows =>
    rintro ⟨k, h1, hk, hov⟩
    exact modExp_overflow hpos.ne' h1 (by omega) hov
  case small =>
    refine ⟨_, modExp_ok hpos.ne' fun k h1 hk => ?_⟩
    obtain hb | hd := hsmall
    · exact not_overflows_of_base_le_one hpos hlt hb k
    · omega

/-- Settles O16: the two branches of `X_REDA`, and its loop. -/
theorem xRedaStepAndLoop : Obligations.XRedaStepAndLoop := by
  intro s hp
  refine ⟨fun hle => ?_, fun hlt hD => ?_, fun hN hpend => runs_xReda hp hpend hN⟩
  · exact (execXReda_subtract hle).trans (by rw [sub_eq_ofNat hle])
  · have hD0 : s.D ≠ 0#64 := by rintro h; rw [h] at hD; exact absurd hD (by decide)
    exact (execXReda_leave hlt).trans (by rw [pred_eq_ofNat hD0])

/-- Settles O19: the two branches of `X_REDR`, and its loop. -/
theorem xRedrStepAndLoop : Obligations.XRedrStepAndLoop := by
  intro s hp
  refine ⟨fun hle => ?_, fun hlt => execXRedr_leave hlt, fun hN hpend => runs_xRedr hp hpend hN⟩
  exact (execXRedr_subtract hle).trans (by rw [sub_eq_ofNat hle])

/-- Settles O18: each test is the test on the product as a number. -/
theorem overflowTestIsExact : Obligations.OverflowTestIsExact := by
  intro r a
  refine ⟨mulExact_none, ?highHalf, fun ha => ?division, fun p hp => ?kept⟩
  case highHalf =>
    rw [mulExact_none, Ne, ← BitVec.toNat_inj, highHalf_toNat, BitVec.toNat_zero,
      Nat.div_eq_zero_iff_lt (Nat.two_pow_pos 64), Nat.not_lt]
  case division =>
    rw [mulExact_none, Nat.div_lt_iff_lt_mul (toNat_pos ha)]
    omega
  case kept =>
    have hexact := mulExact_toNat hp
    exact ⟨hexact, BitVec.eq_of_toNat_eq (by rw [BitVec.toNat_mul, ← hexact, Nat.mod_eq_of_lt p.isLt])⟩

/-- Settles O15: the branches of `X_START` in their order; in mode `RM` the invariants give an odd `N` of at least 3 and
an odd `D` (R34 item 5). -/
theorem xStartStep : Obligations.XStartStep := by
  intro s hp
  refine ⟨fun hN => ?zeroModulus, fun hN hD hm => ?exp, fun hN hD hm => ?rm, fun hN hD => execXStart_reduce hN hD,
    fun hinv hm => ?test⟩
  case zeroModulus => exact (execXStart_zero_modulus hN).trans (by rw [State.raiseFault, hp])
  case exp => exact (execXStart_zero_exponent hN hD).trans (congrArg _ (State.xexit_exp hm))
  case rm => exact (execXStart_zero_exponent hN hD).trans (congrArg _ (State.xexit_rm hm))
  case test =>
    obtain ⟨⟨-, hge⟩, hdec⟩ := hinv.testing hm (by simp [hp])
    exact ⟨by rintro h; rw [h] at hge; exact absurd hge (by decide), hdec.D_ne_zero⟩

/-- Settles O17: the branches of `X_MUL` in their order. -/
theorem xMulStep : Obligations.XMulStep := by
  intro s hp
  refine ⟨fun hC hm => ?exp, fun hC hm => ?rm, fun hC hge => ?overflow, fun hC hlt => ?multiply⟩
  case exp => exact (execXMul_leave hC).trans (congrArg _ (State.xexit_exp hm))
  case rm => exact (execXMul_leave hC).trans (congrArg _ (State.xexit_rm hm))
  case overflow => exact (execXMul_overflow hC hge).trans (by rw [State.raiseFault, hp])
  case multiply =>
    exact ⟨_, _, (BitVec.toNat_ofNat ..).trans (Nat.mod_eq_of_lt hlt), toNat_sub_one hC, execXMul_multiply hC hlt⟩

end Sys2Proof.Machine
end

section
/-! SUPPORT. What `RMTest` answers (R124): the decomposition of the candidate, the squaring loop up to its last squaring, and
the strong-probable-prime condition that its verdict decides (R114, R126). -/

namespace Sys2Proof.Machine

/-! ### The decomposition -/

theorem splitEven_of_odd {d : Nat} (hd : d % 2 = 1) (fuel s : Nat) : splitEven fuel d s = (d, s) := by
  cases fuel with
  | zero => rfl
  | succ fuel => exact if_neg (by omega)

theorem splitEven_of_even {d : Nat} (hd : d % 2 = 0) (fuel s : Nat) :
    splitEven (fuel + 1) d s = splitEven fuel (d / 2) (s + 1) := if_pos hd

/-- Halving takes `d * 2^k` with `d` odd to `d`, and counts the `k` halvings (R113). -/
theorem splitEven_mul_two_pow {d k fuel : Nat} (hd : d % 2 = 1) (hk : k ≤ fuel) (s : Nat) :
    splitEven fuel (d * 2 ^ k) s = (d, s + k) := by
  induction k generalizing fuel s with
  | zero => rw [Nat.pow_zero, Nat.mul_one, splitEven_of_odd hd, Nat.add_zero]
  | succ k ih =>
    obtain ⟨fuel, rfl⟩ := Nat.exists_eq_add_of_le' (Nat.le_of_add_left_le hk)
    have hdouble : d * 2 ^ (k + 1) = 2 * (d * 2 ^ k) := by rw [Nat.pow_succ]; ac_rfl
    rw [hdouble, splitEven_of_even (Nat.mul_mod_right ..), Nat.mul_div_cancel_left _ Nat.two_pos, ih (by omega)]
    congr 1
    omega

/-! ### The residues of the squaring loop -/

/-- The value `m` after `i` squarings of `w^d` modulo `n` (R124, R126). -/
def squareResidue (w d n i : Nat) : Nat := w ^ (d * 2 ^ i) % n

theorem squareResidue_zero (w d n : Nat) : squareResidue w d n 0 = w ^ d % n := by
  rw [squareResidue, Nat.pow_zero, Nat.mul_one]

theorem squareResidue_succ (w d n i : Nat) :
    squareResidue w d n i * squareResidue w d n i % n = squareResidue w d n (i + 1) := sq_residue_eq_pow rfl

/-- A witness acts as its remainder (R181). -/
theorem squareResidue_base_mod (w d n i : Nat) : squareResidue (w % n) d n i = squareResidue w d n i :=
  (Nat.pow_mod ..).symm

theorem squareResidue_lt {n : Nat} (hn : 0 < n) (w d i : Nat) : squareResidue w d n i < n := Nat.mod_lt _ hn

/-- Once the loop has reached 1 it stays there. -/
theorem squareResidue_one_of_le {w d n i j : Nat} (hn : 1 < n) (h : squareResidue w d n i = 1) (hij : i ≤ j) :
    squareResidue w d n j = 1 := by
  induction j, hij using Nat.le_induction with
  | base => exact h
  | succ j _ ih => rw [← squareResidue_succ, ih, Nat.one_mul, Nat.mod_eq_of_lt hn]

/-- The square of `n - 1` is 1 modulo `n`. -/
theorem pred_mul_pred_mod {n : Nat} (hn : 1 < n) : (n - 1) * (n - 1) % n = 1 := by
  obtain ⟨m, rfl⟩ := Nat.exists_eq_add_of_le' hn
  rw [show (m + 1 + 1 - 1) * (m + 1 + 1 - 1) = 1 + (m + 1 + 1) * m by simp only [Nat.add_sub_cancel]; ring,
    Nat.add_mul_mod_self_left, Nat.mod_eq_of_lt hn]

theorem squareResidue_succ_of_eq_pred {w d n i : Nat} (hn : 1 < n) (h : squareResidue w d n i = n - 1) :
    squareResidue w d n (i + 1) = 1 := by
  rw [← squareResidue_succ, h, pred_mul_pred_mod hn]

/-! ### The strong-probable-prime condition -/

/-- The condition of R126: `w^d = 1`, or one of the residues before the last squaring is `n - 1`. -/
def PassesTest (n w d s : Nat) : Prop :=
  w ^ d % n = 1 ∨ ∃ r, r < s ∧ w ^ (d * 2 ^ r) % n = n - 1

/-- A loop whose last squaring is the `i`-th, at 1 or because all `s` are done, has met the condition iff that squaring took
`n - 1` to 1: a residue `n - 1` anywhere gives 1 next, and then 1 for good (R123, R126). -/
theorem passesTest_iff_last_square {n w d s i : Nat} (hn : 3 ≤ n) (h1 : 1 ≤ i) (his : i ≤ s)
    (hne : squareResidue w d n (i - 1) ≠ 1) (hlast : squareResidue w d n i ≠ 1 → i = s) :
    squareResidue w d n i = 1 ∧ squareResidue w d n (i - 1) = n - 1 ↔ PassesTest n w d s := by
  constructor
  · rintro ⟨-, hpred⟩
    exact .inr ⟨i - 1, by omega, hpred⟩
  · rintro (hfirst | ⟨r, hr, hpred⟩)
    · exact absurd (squareResidue_one_of_le (by omega) ((squareResidue_zero ..).trans hfirst) (Nat.zero_le _)) hne
    · have hnext := squareResidue_succ_of_eq_pred (w := w) (d := d) (i := r) (by omega) hpred
      have hone : squareResidue w d n i = 1 := by
        by_contra h
        exact h (squareResidue_one_of_le (by omega) hnext (by have := hlast h; omega))
      have hle : i - 1 ≤ r := by
        by_contra h
        exact hne (squareResidue_one_of_le (by omega) hnext (by omega))
      have hge : r ≤ i - 1 := by
        by_contra h
        have hr1 := squareResidue_one_of_le (by omega) hone (show i ≤ r by omega)
        exact absurd (hr1.symm.trans hpred) (by omega)
      exact ⟨hone, by rw [Nat.le_antisymm hle hge]; exact hpred⟩

/-! ### The squaring loop -/

/-- The square of the `i`-th residue does not fit 64 bits (R121). -/
def SquareOverflows (w d n i : Nat) : Prop := 2 ^ 64 ≤ squareResidue w d n i * squareResidue w d n i

theorem not_squareOverflows_iff {w d n i : Nat} :
    ¬ SquareOverflows w d n i ↔ squareResidue w d n i * squareResidue w d n i < 2 ^ 64 := Nat.not_le

/-- The square of a residue of a modulus of at most `2^32` fits (R121). -/
theorem not_squareOverflows_of_modulus_le {n : Nat} (hpos : 0 < n) (hle : n ≤ 2 ^ 32) (w d i : Nat) :
    ¬ SquareOverflows w d n i := by
  have hlt : squareResidue w d n i < 2 ^ 32 := (squareResidue_lt hpos w d i).trans_le hle
  exact not_squareOverflows_iff.2 ((Nat.mul_lt_mul'' hlt hlt).trans_eq (Nat.pow_add 2 32 32).symm)

theorem squareFrom_overflow {w d n i : Nat} (h : SquareOverflows w d n i) (k : Nat) :
    squareFrom n (k + 1) (squareResidue w d n i) = .error .overflow := if_pos h

theorem squareFrom_exit {w d n i : Nat} (hfit : ¬ SquareOverflows w d n i) (hone : squareResidue w d n (i + 1) = 1)
    (k : Nat) : squareFrom n (k + 1) (squareResidue w d n i) = .ok (decide (squareResidue w d n i = n - 1)) :=
  (if_neg hfit).trans (if_pos ((squareResidue_succ ..).trans hone))

theorem squareFrom_continue {w d n i : Nat} (hfit : ¬ SquareOverflows w d n i) (hne : squareResidue w d n (i + 1) ≠ 1)
    (k : Nat) : squareFrom n (k + 1) (squareResidue w d n i) = squareFrom n k (squareResidue w d n (i + 1)) := by
  rw [← squareResidue_succ] at hne ⊢
  exact (if_neg hfit).trans (if_neg hne)

/-- The squaring of the `l`-th residue is the last of the at most `s` squarings of the loop: none before it overflows or gives
1, and, if it does not overflow, it gives 1 or is the `s`-th (R121, R122). -/
structure LastSquaring (w d n s l : Nat) : Prop where
  lt : l < s
  fits : ∀ j < l, ¬ SquareOverflows w d n j
  ne_one : ∀ j ≤ l, squareResidue w d n j ≠ 1
  stops : ¬ SquareOverflows w d n l → squareResidue w d n (l + 1) ≠ 1 → l + 1 = s

/-- From a residue up to which nothing stopped the loop, there is a last squaring. -/
theorem exists_lastSquaring_from {w d n s l k : Nat} (hls : l + (k + 1) = s) (hfits : ∀ j < l, ¬ SquareOverflows w d n j)
    (hne : ∀ j ≤ l, squareResidue w d n j ≠ 1) : ∃ l, LastSquaring w d n s l := by
  induction k generalizing l with
  | zero => exact ⟨l, by omega, hfits, hne, fun _ _ => by omega⟩
  | succ k ih =>
    by_cases hgo : ¬ SquareOverflows w d n l ∧ squareResidue w d n (l + 1) ≠ 1
    · obtain ⟨hfit, hnext⟩ := hgo
      exact ih (l := l + 1) (by omega) (fun j hj => (Nat.lt_succ_iff_lt_or_eq.1 hj).elim (hfits j) (· ▸ hfit))
        (fun j hj => (Nat.le_succ_iff.1 hj).elim (hne j) (· ▸ hnext))
    · exact ⟨l, by omega, hfits, hne, fun hfit hnext => absurd ⟨hfit, hnext⟩ hgo⟩

/-- A loop that begins has a last squaring. -/
theorem exists_lastSquaring {w d n s : Nat} (hs : 1 ≤ s) (h0 : squareResidue w d n 0 ≠ 1) :
    ∃ l, LastSquaring w d n s l :=
  exists_lastSquaring_from (l := 0) (k := s - 1) (by omega) (fun _ hj => absurd hj (Nat.not_lt_zero _))
    (fun j hj => by rwa [Nat.le_zero.1 hj])

/-- The loop comes to every residue up to the last squaring. -/
theorem LastSquaring.squareFrom_eq {w d n s l : Nat} (h : LastSquaring w d n s l) {j : Nat} (hj : j ≤ l) :
    squareFrom n s (squareResidue w d n 0) = squareFrom n (s - j) (squareResidue w d n j) := by
  induction j with
  | zero => rfl
  | succ j ih =>
    have hlt := h.lt
    rw [ih (by omega), show s - j = s - (j + 1) + 1 by omega, squareFrom_continue (h.fits j hj) (h.ne_one _ hj)]

theorem LastSquaring.squareFrom_overflow {w d n s l : Nat} (h : LastSquaring w d n s l) (hov : SquareOverflows w d n l) :
    squareFrom n s (squareResidue w d n 0) = .error .overflow := by
  have hlt := h.lt
  rw [h.squareFrom_eq (Nat.le_refl l), show s - l = s - l - 1 + 1 by omega, Machine.squareFrom_overflow hov]

/-- A loop without overflow answers what `RM_VERDICT` decides on the values before and after the last squaring (R123). -/
theorem LastSquaring.squareFrom_ok {w d n s l : Nat} (h : LastSquaring w d n s l) (hfit : ¬ SquareOverflows w d n l) :
    squareFrom n s (squareResidue w d n 0) =
      .ok (decide (squareResidue w d n (l + 1) = 1 ∧ squareResidue w d n l = n - 1)) := by
  have hlt := h.lt
  rw [h.squareFrom_eq (Nat.le_refl l), show s - l = s - (l + 1) + 1 by omega]
  by_cases hone : squareResidue w d n (l + 1) = 1
  · simp only [squareFrom_exit hfit hone, hone, true_and]
  · rw [squareFrom_continue hfit hone, ← h.stops hfit hone, Nat.sub_self]
    simp only [squareFrom, hone, false_and, decide_false]

/-- The last squaring decides the condition of R126. -/
theorem LastSquaring.passesTest_iff {w d n s l : Nat} (h : LastSquaring w d n s l) (hn : 3 ≤ n)
    (hfit : ¬ SquareOverflows w d n l) :
    squareResidue w d n (l + 1) = 1 ∧ squareResidue w d n l = n - 1 ↔ PassesTest n w d s :=
  passesTest_iff_last_square (i := l + 1) hn (Nat.le_add_left ..) h.lt (h.ne_one l (Nat.le_refl l)) (h.stops hfit)

/-! ### `RMTest` -/

/-- An odd 64-bit candidate and its Witness Decomposition (R114). -/
structure Decomposition (n d k : Nat) : Prop where
  candidate_odd : n % 2 = 1
  candidate_ge : 3 ≤ n
  candidate_lt : n < 2 ^ 64
  odd : d % 2 = 1
  mul_two_pow : d * 2 ^ k = n - 1

/-- Every odd 64-bit candidate has a decomposition. -/
theorem exists_decomposition {n : Nat} (hodd : n % 2 = 1) (hge : 3 ≤ n) (hlt : n < 2 ^ 64) :
    ∃ d k, Decomposition n d k := by
  obtain ⟨k, d, hd, h⟩ := Nat.exists_eq_two_pow_mul_odd (n := n - 1) (by omega)
  exact ⟨d, k, hodd, hge, hlt, Nat.odd_iff.1 hd, by rw [h, Nat.mul_comm]⟩

/-- What is halved at least once and is odd in the end was even: so `1 ≤ k ≤ 63` for a 64-bit candidate (R114). -/
theorem Decomposition.bounds {n d k : Nat} (h : Decomposition n d k) : 1 ≤ k ∧ k ≤ 63 := by
  obtain ⟨hodd, hge, hlt, hd, hdk⟩ := h
  refine ⟨Nat.one_le_iff_ne_zero.2 ?_, exponent_le_of_mul_two_pow hdk (by omega) (by omega)⟩
  rintro rfl
  omega

/-- The decomposition that `RMTest` computes is the given one: there is only one (R114). -/
theorem Decomposition.splitEven_eq {n d k : Nat} (h : Decomposition n d k) : splitEven 63 (n - 1) 0 = (d, k) := by
  obtain ⟨-, hk⟩ := h.bounds
  rw [← h.mul_two_pow, splitEven_mul_two_pow h.odd hk, Nat.zero_add]

theorem Decomposition.rmTest_error {n d k w : Nat} {c : ErrCode} (h : Decomposition n d k)
    (he : modExp w d n = .error c) : rmTest n w = .error c := by
  obtain ⟨hodd, hge, -⟩ := id h
  simp [rmTest, h.splitEven_eq, he, hodd, show n ≠ 2 by omega, show n ≠ 1 by omega]

theorem Decomposition.rmTest_ok {n d k w m : Nat} (h : Decomposition n d k) (he : modExp w d n = .ok m) :
    rmTest n w = if m = 1 then .ok true else squareFrom n k m := by
  obtain ⟨hodd, hge, -⟩ := id h
  simp [rmTest, h.splitEven_eq, he, hodd, show n ≠ 2 by omega, show n ≠ 1 by omega]

/-- How an `RMTest` ends, by its answer: at a product or a square that overflows, at the first test, or at the verdict on its
last squaring (R124, R125). -/
inductive TestEnd (n w d k : Nat) : Except ErrCode Bool → Prop
  | productOverflow {j : Nat} (h1 : 1 ≤ j) (hj : j < d) (hfit : ∀ i, 1 ≤ i → i < j → ¬ Overflows (w % n) n i)
      (hov : Overflows (w % n) n j) : TestEnd n w d k (.error .overflow)
  | first (hfit : ∀ i, 1 ≤ i → i < d → ¬ Overflows (w % n) n i) (hone : squareResidue w d n 0 = 1) :
      TestEnd n w d k (.ok true)
  | squareOverflow {l : Nat} (hfit : ∀ i, 1 ≤ i → i < d → ¬ Overflows (w % n) n i) (hlast : LastSquaring w d n k l)
      (hov : SquareOverflows w d n l) : TestEnd n w d k (.error .overflow)
  | verdict {l : Nat} (hfit : ∀ i, 1 ≤ i → i < d → ¬ Overflows (w % n) n i) (hlast : LastSquaring w d n k l)
      (hsq : ¬ SquareOverflows w d n l) :
      TestEnd n w d k (.ok (decide (squareResidue w d n (l + 1) = 1 ∧ squareResidue w d n l = n - 1)))

/-- EVERYTHING `RMTest` CAN ANSWER on an odd candidate. -/
theorem rmTest_end {n d k : Nat} (h : Decomposition n d k) (w : Nat) : TestEnd n w d k (rmTest n w) := by
  have hn : n ≠ 0 := by have := h.candidate_ge; omega
  obtain ⟨hok, hfit⟩ | ⟨herr, j, h1, hj, hov, hfit⟩ := modExp_cases hn w d
  · rw [h.rmTest_ok hok, ← squareResidue_zero]
    by_cases hone : squareResidue w d n 0 = 1
    · rw [if_pos hone]
      exact .first hfit hone
    · obtain ⟨hk, -⟩ := h.bounds
      obtain ⟨l, hlast⟩ := exists_lastSquaring hk hone
      rw [if_neg hone]
      by_cases hov : SquareOverflows w d n l
      · rw [hlast.squareFrom_overflow hov]
        exact .squareOverflow hfit hlast hov
      · rw [hlast.squareFrom_ok hov]
        exact .verdict hfit hlast hov
  · rw [h.rmTest_error herr]
    exact .productOverflow h1 hj hfit hov

/-- A verdict decides the condition of R126. -/
theorem Decomposition.verdict_iff {n d k w : Nat} {v : Bool} (h : Decomposition n d k) (hv : rmTest n w = .ok v) :
    v = true ↔ PassesTest n w d k := by
  have hend := hv ▸ rmTest_end h w
  cases hend with
  | first hfit hone => exact iff_of_true rfl (.inl ((squareResidue_zero ..).symm.trans hone))
  | verdict hfit hlast hsq => rw [decide_eq_true_iff, hlast.passesTest_iff h.candidate_ge hsq]

/-- An `RMTest` on a candidate of at most `2^32` comes to a verdict: no product and no square overflows (R175). -/
theorem Decomposition.rmTest_verdict_of_le {n d k : Nat} (h : Decomposition n d k) (hle : n ≤ 2 ^ 32) (w : Nat) :
    ∃ v, rmTest n w = .ok v := by
  have hpos : 0 < n := by have := h.candidate_ge; omega
  have hend := rmTest_end h w
  generalize rmTest n w = answer at hend
  cases hend with
  | productOverflow h1 hj hfit hov => exact absurd hov (not_overflows_of_modulus_le hpos hle w _)
  | first hfit hone => exact ⟨_, rfl⟩
  | squareOverflow hfit hlast hov => exact absurd hov (not_squareOverflows_of_modulus_le hpos hle w d _)
  | verdict hfit hlast hsq => exact ⟨_, rfl⟩

/-! ### The witness `n - 1`, and prime candidates -/

/-- An odd power of `n - 1` is `n - 1` modulo `n`. -/
theorem pred_pow_mod {n d : Nat} (hn : 1 < n) (hd : d % 2 = 1) : (n - 1) ^ d % n = n - 1 := by
  have hdvd : n ∣ (n - 1) ^ d + 1 := by
    simpa [Nat.sub_add_cancel hn.le] using (Nat.odd_iff.2 hd).nat_add_dvd_pow_add_pow (n - 1) 1
  have hlt : (n - 1) ^ d % n < n := Nat.mod_lt _ (by omega)
  have hsucc : n ∣ (n - 1) ^ d % n + 1 := by
    rwa [Nat.dvd_iff_mod_eq_zero, Nat.mod_add_mod, ← Nat.dvd_iff_mod_eq_zero]
  have := Nat.le_of_dvd (Nat.succ_pos _) hsucc
  omega

/-- The witness `n - 1` meets the condition at its first value. -/
theorem Decomposition.passesTest_pred {n d k : Nat} (h : Decomposition n d k) : PassesTest n (n - 1) d k := by
  have hge := h.candidate_ge
  obtain ⟨hk, -⟩ := h.bounds
  refine .inr ⟨0, hk, ?_⟩
  rw [Nat.pow_zero, Nat.mul_one, pred_pow_mod (by omega) h.odd]

/-- Modulo a prime only 1 and `n - 1` have the square 1. -/
theorem eq_pred_of_mul_self_mod_eq_one {n m : Nat} (hp : n.Prime) (hlt : m < n) (hne : m ≠ 1) (hsq : m * m % n = 1) :
    m = n - 1 := by
  have hdvd : n ∣ (m + 1) * (m - 1) := by
    rw [← Nat.mul_self_sub_mul_self_eq m 1, Nat.dvd_iff_mod_eq_zero]
    exact Nat.sub_mod_eq_zero_of_mod_eq (hsq.trans (Nat.mod_eq_of_lt hp.one_lt).symm)
  obtain hplus | hminus := hp.dvd_mul.1 hdvd
  · have := Nat.le_of_dvd (Nat.succ_pos m) hplus
    omega
  · have hzero := Nat.eq_zero_of_dvd_of_lt hminus (by omega)
    obtain rfl : m = 0 := by omega
    simp at hsq

/-- Modulo a prime, a value 1 in the loop is the first one or comes from `n - 1`. -/
theorem passesTest_of_squareResidue_eq_one {n w d k i : Nat} (hp : n.Prime) (hik : i ≤ k)
    (h : squareResidue w d n i = 1) : PassesTest n w d k := by
  induction i with
  | zero => exact .inl ((squareResidue_zero ..).symm.trans h)
  | succ i ih =>
    by_cases hone : squareResidue w d n i = 1
    · exact ih (by omega) hone
    · exact .inr ⟨i, hik, eq_pred_of_mul_self_mod_eq_one hp (squareResidue_lt hp.pos w d i) hone
        ((squareResidue_succ ..).trans h)⟩

/-- A prime meets the condition with every witness it does not divide: by Fermat's little theorem the last value is 1. -/
theorem Decomposition.passesTest_of_prime {n d k w : Nat} (h : Decomposition n d k) (hp : n.Prime) (hw : Nat.Coprime w n) :
    PassesTest n w d k := by
  have hfermat : w ^ (n - 1) % n = 1 % n := Nat.totient_prime hp ▸ Nat.ModEq.pow_totient hw
  rw [← h.mul_two_pow, Nat.mod_eq_of_lt hp.one_lt] at hfermat
  exact passesTest_of_squareResidue_eq_one hp (Nat.le_refl k) hfermat

end Sys2Proof.Machine
end

section
/-! SUPPORT. The micro-steps of the Rabin-Miller test, branch by branch, the decomposition and the reduction of a square
as runs, and the steps that give a verdict (R112 to R123). -/

namespace Sys2Proof.Machine

/-! ### Words and numbers -/

theorem ne_zero_of_toNat_pos {x : Word} (h : 0 < x.toNat) : x ≠ 0#64 := by
  rintro rfl
  exact absurd h (by decide)

/-- A successor that does not wrap, as a number. -/
theorem succ_eq_ofNat {x : Word} (h : x.toNat + 1 < 2 ^ 64) : x + 1#64 = BitVec.ofNat 64 (x.toNat + 1) := by
  rw [← toNat_add_one h, BitVec.ofNat_toNat, BitVec.setWidth_eq]

/-- A right shift by one halves (R113). -/
theorem toNat_shiftRight_one (x : Word) : (x >>> 1).toNat = x.toNat / 2 := by
  rw [BitVec.toNat_ushiftRight, Nat.shiftRight_eq_div_pow, Nat.pow_one]

theorem shiftRight_one_eq_ofNat (x : Word) : x >>> 1 = BitVec.ofNat 64 (x.toNat / 2) := by
  rw [← toNat_shiftRight_one, BitVec.ofNat_toNat, BitVec.setWidth_eq]

/-- A square is `2^64` or more iff its root is `2^32` or more (R121). -/
theorem two_pow_64_le_mul_self_iff {r : Nat} : 2 ^ 64 ≤ r * r ↔ 2 ^ 32 ≤ r := by
  rw [Nat.pow_add 2 32 32, Nat.mul_self_le_mul_self_iff]

/-! ### The micro-steps, branch by branch -/

theorem execRmCheck_two {s : State} (hN : s.N = 2#64) : execRmCheck s = .next { s with verdict := true, phase := .done } := by
  obtain ⟨-, e⟩ | ⟨hN', -⟩ | ⟨hN', -⟩ | ⟨hodd, -⟩ := execRmCheck_cases s
  · exact e
  · exact absurd hN hN'
  · exact absurd (hN.symm.trans hN') (by decide)
  · rw [hN] at hodd; exact absurd hodd (by decide)

theorem execRmCheck_even {s : State} (hN : s.N ≠ 2#64) (heven : s.N.toNat % 2 = 0) :
    execRmCheck s = .next { s with verdict := false, phase := .done } := by
  obtain ⟨hN', -⟩ | ⟨-, -, e⟩ | ⟨hN', -⟩ | ⟨hodd, -⟩ := execRmCheck_cases s
  · exact absurd hN' hN
  · exact e
  · rw [hN'] at heven; exact absurd heven (by decide)
  · omega

theorem execRmCheck_one {s : State} (hN : s.N = 1#64) : execRmCheck s = .next (s.raiseFault .domain) := by
  obtain ⟨hN', -⟩ | ⟨-, heven, -⟩ | ⟨-, e⟩ | ⟨-, hge, -⟩ := execRmCheck_cases s
  · exact absurd (hN.symm.trans hN') (by decide)
  · rw [hN] at heven; exact absurd heven (by decide)
  · exact e
  · rw [hN] at hge; exact absurd hge (by decide)

theorem execRmCheck_odd {s : State} (hodd : s.N.toNat % 2 = 1) (hge : 3 ≤ s.N.toNat) :
    execRmCheck s = .next { s with D := s.N - 1#64, S := 0#64, phase := .rmDecomp } := by
  obtain ⟨hN, -⟩ | ⟨-, heven, -⟩ | ⟨hN, -⟩ | ⟨-, -, e⟩ := execRmCheck_cases s
  · rw [hN] at hodd; exact absurd hodd (by decide)
  · omega
  · rw [hN] at hge; exact absurd hge (by decide)
  · exact e

theorem execRmDecomp_halve {s : State} (heven : s.D.toNat % 2 = 0) :
    execRmDecomp s = .next { s with D := s.D >>> 1, S := s.S + 1#64 } := by
  obtain ⟨-, e⟩ | ⟨hodd, -⟩ := execRmDecomp_cases s
  · exact e
  · omega

theorem execRmDecomp_leave {s : State} (hodd : s.D.toNat % 2 = 1) : execRmDecomp s = .next { s with phase := .rmDraw } := by
  obtain ⟨heven, -⟩ | ⟨-, e⟩ := execRmDecomp_cases s
  · omega
  · exact e

theorem execRmDraw_handOver {s : State} {w : Word} (he : s.event = .hostWrite .wit w) :
    execRmDraw s = .next (s.handOver w) := by
  obtain ⟨w', he', e⟩ | ⟨hno, -⟩ := execRmDraw_cases s
  · cases he.symm.trans he'; exact e
  · exact absurd he (hno w)

theorem execRmDraw_hold {s : State} (hno : ∀ w, s.event ≠ .hostWrite .wit w) : execRmDraw s = .next s := by
  obtain ⟨w, he, -⟩ | ⟨-, e⟩ := execRmDraw_cases s
  · exact absurd he (hno w)
  · exact e

theorem execRmFirst_one {s : State} (hR : s.R = 1#64) : execRmFirst s = .next { s with verdict := true, phase := .done } := by
  obtain ⟨-, e⟩ | ⟨hR', -⟩ := execRmFirst_cases s
  · exact e
  · exact absurd hR hR'

theorem execRmFirst_ne_one {s : State} (hR : s.R ≠ 1#64) : execRmFirst s = .next { s with I := 0#64, phase := .rmSq } := by
  obtain ⟨hR', -⟩ | ⟨-, e⟩ := execRmFirst_cases s
  · exact absurd hR' hR
  · exact e

theorem execRmSq_leave {s : State} (hI : s.I = s.S) : execRmSq s = .next { s with phase := .rmVerdict } := by
  obtain ⟨-, e⟩ | ⟨hI', -⟩ | ⟨hI', -⟩ := execRmSq_cases s
  · exact e
  all_goals exact absurd hI hI'

theorem execRmSq_overflow {s : State} (hI : s.I ≠ s.S) (h : 2 ^ 64 ≤ s.R.toNat * s.R.toNat) :
    execRmSq s = .next (s.raiseFault .overflow) := by
  obtain ⟨hI', -⟩ | ⟨-, -, e⟩ | ⟨-, hlt, -⟩ := execRmSq_cases s
  · exact absurd hI' hI
  · exact e
  · exact absurd h (Nat.not_le.2 hlt)

theorem execRmSq_square {s : State} (hI : s.I ≠ s.S) (h : s.R.toNat * s.R.toNat < 2 ^ 64) :
    execRmSq s =
      .next { s with LASTM := s.R, R := BitVec.ofNat 64 (s.R.toNat * s.R.toNat), I := s.I + 1#64, phase := .rmSqred } := by
  obtain ⟨hI', -⟩ | ⟨-, hge, -⟩ | ⟨-, -, e⟩ := execRmSq_cases s
  · exact absurd hI' hI
  · exact absurd h (Nat.not_lt.2 hge)
  · exact e

theorem execRmSqred_subtract {s : State} (h : s.N.toNat ≤ s.R.toNat) : execRmSqred s = .next { s with R := s.R - s.N } := by
  obtain ⟨-, e⟩ | ⟨hlt, -⟩ | ⟨hlt, -⟩ := execRmSqred_cases s
  · exact e
  all_goals exact absurd h (Nat.not_le.2 hlt)

/-- The early-exit test on the reduced value (R122). -/
theorem execRmSqred_leave {s : State} (h : s.R.toNat < s.N.toNat) :
    execRmSqred s = .next { s with phase := if s.R = 1#64 then .rmVerdict else .rmSq } := by
  obtain ⟨hle, -⟩ | ⟨-, hR, e⟩ | ⟨-, hR, e⟩ := execRmSqred_cases s
  · exact absurd h (Nat.not_lt.2 hle)
  · rw [if_pos hR]; exact e
  · rw [if_neg hR]; exact e

/-- The test of `RM_VERDICT`, on numbers (R123). -/
theorem execRmVerdict_toNat {s : State} (hN : s.N ≠ 0#64) :
    execRmVerdict s =
      .next { s with verdict := decide (s.R.toNat = 1 ∧ s.LASTM.toNat = s.N.toNat - 1), phase := .done } := by
  rw [execRmVerdict_eq, ← toNat_sub_one hN]
  simp only [← BitVec.toNat_inj, BitVec.toNat_ofNat]

/-! ### The decomposition and the reduction of a square, as runs -/

/-- A `D` that is `d * 2^k` with `d` odd is halved `k` times, each counted in `S` (R113). -/
theorem runs_rmDecomp {s : State} {d k : Nat} (hp : s.phase = .rmDecomp) (hpend : s.pending = []) (hd : d % 2 = 1)
    (hD : d * 2 ^ k = s.D.toNat) (hS : s.S.toNat + k < 2 ^ 64) :
    Runs (k + 1) s { s with D := BitVec.ofNat 64 d, S := BitVec.ofNat 64 (s.S.toNat + k), phase := .rmDraw } := by
  induction k generalizing s with
  | zero =>
    rw [Nat.pow_zero, Nat.mul_one] at hD
    simp only [hD, Nat.zero_add, Nat.add_zero, BitVec.ofNat_toNat, BitVec.setWidth_eq]
    exact runs_one (step_microStep (i := .rmDecomp) hpend hp rfl (execRmDecomp_leave (hD ▸ hd)))
  | succ k ih =>
    have hdouble : s.D.toNat = 2 * (d * 2 ^ k) := by rw [← hD, Nat.pow_succ]; ac_rfl
    have hhalf : (s.D >>> 1).toNat = d * 2 ^ k := by
      rw [toNat_shiftRight_one, hdouble, Nat.mul_div_cancel_left _ Nat.two_pos]
    have hsucc : (s.S + 1#64).toNat = s.S.toNat + 1 := toNat_add_one (by omega)
    have hstep := step_microStep (i := .rmDecomp) hpend hp rfl (execRmDecomp_halve (by omega))
    have hrest := ih (s := { s with D := s.D >>> 1, S := s.S + 1#64 }) hp hpend hhalf.symm (by dsimp only; omega)
    simp only [hsucc, Nat.add_assoc, Nat.add_comm 1 k] at hrest
    exact runs_of_step hstep hrest

/-- An odd candidate comes from `RM_CHECK` to the draw with its decomposition, whatever `D` and `S` held (R114, R115). -/
theorem runs_to_rmDraw {s : State} {d k : Nat} (hp : s.phase = .rmCheck) (hpend : s.pending = []) (hcand : s.OddCandidate)
    (hd : d % 2 = 1) (hdk : d * 2 ^ k = s.N.toNat - 1) :
    Runs (k + 2) s { s with D := BitVec.ofNat 64 d, S := BitVec.ofNat 64 k, phase := .rmDraw } := by
  obtain ⟨hodd, hge⟩ := hcand
  have hlt := s.N.isLt
  have hk : k ≤ 63 := exponent_le_of_mul_two_pow hdk (by omega) (by omega)
  have hpred : (s.N - 1#64).toNat = s.N.toNat - 1 := toNat_sub_one (ne_zero_of_toNat_pos (by omega))
  have hcheck := step_microStep (i := .rmCheck) hpend hp rfl (execRmCheck_odd hodd hge)
  have hloop := runs_rmDecomp (s := { s with D := s.N - 1#64, S := 0#64, phase := .rmDecomp }) rfl hpend hd
    (hdk.trans hpred.symm) (by simp only [BitVec.toNat_ofNat]; omega)
  simp only [BitVec.toNat_ofNat, Nat.zero_mod, Nat.zero_add] at hloop
  exact runs_of_step hcheck hloop

/-- The reduction of the square (R122). -/
theorem runs_rmSqred {s : State} (hp : s.phase = .rmSqred) (hpend : s.pending = []) (hN : 0 < s.N.toNat) :
    Runs (s.R.toNat / s.N.toNat) s { s with R := BitVec.ofNat 64 (s.R.toNat % s.N.toNat) } :=
  runs_reduction hN (fun x => { s with R := x })
    (fun x hle => step_microStep (i := .rmSqred) hpend hp rfl (execRmSqred_subtract (s := { s with R := x }) hle)) s.R

/-! ### The command -/

/-- The block after the step of an accepted `RMTEST` with nothing pending after it (R62). -/
def State.rmtestStarted (s : State) : State :=
  { s with verdict := false, mode := .rm, phase := .rmCheck, pending := [] }

/-- A run of an accepted `RMTEST` is the command's step and the run from `RM_CHECK`. -/
theorem runs_rmtest {s t : State} {k : Nat} (hp : s.phase = .idle ∨ s.phase = .done)
    (hpend : s.pending = [.hostWrite .cmd 0x2#64]) (h : Runs k s.rmtestStarted t) : Runs (k + 1) s t :=
  runs_of_step (step_command_accepted (Phase.accepts_iff.2 hp) hpend (decode_encode .rmtest) (execRmtest_eq s)) h

/-! ### The steps that give a verdict -/

/-- On the sequencer's turn a step is the meaning of the micro-step whose code `phase` holds, and moves on (R65). -/
theorem step_sequencerTurn {s t : State} {i : Instr} {p : Phase} (he : s.event = .sequencer) (hp : s.phase = p)
    (hcode : encode i = .phaseCode p.code) (h : exec i s = .next t) : step s = .next t.advance := by
  have hd : decode (.phaseCode s.phase.code) = .ok i := by rw [hp, ← hcode, decode_encode]
  rw [step_of_fetch (State.fetch_phase he hd), h]
  rfl

/-- With the reduced witness in `A`, the residues of the loop are those of the witness (R119, R126). -/
theorem State.BaseIsWitness.squareResidue_eq {s : State} (h : s.BaseIsWitness) (hm : s.mode = .rm) (i : Nat) :
    s.A.toNat ^ (s.D.toNat * 2 ^ i) % s.N.toNat = squareResidue s.WIT.toNat s.D.toNat s.N.toNat i :=
  (congrArg (fun a => squareResidue a s.D.toNat s.N.toNat i) (h hm)).trans (squareResidue_base_mod ..)

/-- At `RM_FIRST` the residue is the first value of the loop (R120). -/
theorem verdict_iff_of_rmFirst {s t : State} (hp : s.phase = .rmFirst) (hop : s.OperandInv) (hres : s.PhaseResidue)
    (he : s.event = .sequencer) (h : step s = .next t) (hdone : t.phase = .done) :
    t.verdict = true ↔ PassesTest s.N.toNat s.WIT.toNat s.D.toNat s.S.toNat := by
  simp only [State.PhaseResidue, State.OperandInv, hp] at hres hop
  obtain ⟨hm, -⟩ := hop
  obtain ⟨hbase, hR⟩ := hres
  have hfirst := hbase.squareResidue_eq hm 0
  rw [Nat.pow_zero, Nat.mul_one, squareResidue_zero, ← hR] at hfirst
  by_cases hone : s.R = 1#64
  · cases h.symm.trans (step_sequencerTurn (i := .rmFirst) he hp rfl (execRmFirst_one hone))
    exact iff_of_true rfl (.inl (by rw [← hfirst, hone]; rfl))
  · cases h.symm.trans (step_sequencerTurn (i := .rmFirst) he hp rfl (execRmFirst_ne_one hone))
    cases hdone

/-- At `RM_VERDICT` `LASTM` and `R` are the values before and after the last squaring (R123). -/
theorem verdict_iff_of_rmVerdict {s t : State} (hp : s.phase = .rmVerdict) (hop : s.OperandInv) (hres : s.PhaseResidue)
    (he : s.event = .sequencer) (h : step s = .next t) :
    t.verdict = true ↔ PassesTest s.N.toNat s.WIT.toNat s.D.toNat s.S.toNat := by
  simp only [State.PhaseResidue, State.OperandInv, hp] at hres hop
  obtain ⟨hm, ⟨-, hge⟩, -, hIS, hI, -⟩ := hop
  obtain ⟨hbase, hR, ⟨hne, hlast⟩, hall⟩ := hres
  rw [hbase.squareResidue_eq hm] at hR hlast
  have hN : s.N ≠ 0#64 := ne_zero_of_toNat_pos (by omega)
  cases h.symm.trans (step_sequencerTurn (i := .rmVerdict) he hp rfl (execRmVerdict_toNat hN))
  refine decide_eq_true_iff.trans ?_
  rw [hR, hlast]
  exact passesTest_iff_last_square hge hI hIS (hlast ▸ hne) fun hq => congrArg BitVec.toNat (hall (hR ▸ hq))

end Sys2Proof.Machine
end

section
/-! SUPPORT. The Rabin-Miller test as a run, from the witness to its verdict or its fault (R117 to R127). -/

namespace Sys2Proof.Machine

/-! ### Reaching a state -/

/-- The machine comes from `s` to `t`, after some number of transitions. -/
def Reaches (s t : State) : Prop := ∃ k, Runs k s t

theorem reaches_of_runs {k : Nat} {s t : State} (h : Runs k s t) : Reaches s t := ⟨k, h⟩

theorem reaches_of_step {s t : State} (h : step s = .next t) : Reaches s t := reaches_of_runs (runs_one h)

theorem Reaches.trans {s t u : State} (h1 : Reaches s t) (h2 : Reaches t u) : Reaches s u := by
  obtain ⟨j, hj⟩ := h1
  obtain ⟨k, hk⟩ := h2
  exact reaches_of_runs (runs_trans hj hk)

/-! ### One turn of the squaring loop -/

/-- A squaring that fits, with its reduction and the early-exit test (R121, R122). -/
theorem reaches_square {s : State} (hp : s.phase = .rmSq) (hpend : s.pending = []) (hN : 0 < s.N.toNat) (hI : s.I ≠ s.S)
    (hfit : s.R.toNat * s.R.toNat < 2 ^ 64) :
    Reaches s
      { s with
        LASTM := s.R, R := BitVec.ofNat 64 (s.R.toNat * s.R.toNat % s.N.toNat), I := s.I + 1#64,
        phase := if s.R.toNat * s.R.toNat % s.N.toNat = 1 then .rmVerdict else .rmSq } := by
  have hsquare := step_microStep (i := .rmSq) hpend hp rfl (execRmSq_square hI hfit)
  have hreduce := runs_rmSqred (s := { s with
    LASTM := s.R, R := BitVec.ofNat 64 (s.R.toNat * s.R.toNat), I := s.I + 1#64, phase := .rmSqred }) rfl hpend hN
  have hkept : (BitVec.ofNat 64 (s.R.toNat * s.R.toNat)).toNat = s.R.toNat * s.R.toNat :=
    (BitVec.toNat_ofNat ..).trans (Nat.mod_eq_of_lt hfit)
  simp only [hkept] at hreduce
  have hmod := toNat_ofNat_mod hN (s.R.toNat * s.R.toNat)
  have hleave := step_microStep (s := { s with
    LASTM := s.R, R := BitVec.ofNat 64 (s.R.toNat * s.R.toNat % s.N.toNat), I := s.I + 1#64, phase := .rmSqred })
    (i := .rmSqred) hpend rfl rfl (execRmSqred_leave (hmod.trans_lt (Nat.mod_lt _ hN)))
  simp only [← BitVec.toNat_inj, hmod, BitVec.toNat_ofNat, Nat.one_mod_two_pow_eq_one.2 (show 0 < 64 by decide)] at hleave
  exact (reaches_of_step hsquare).trans ((reaches_of_runs hreduce).trans (reaches_of_step hleave))

/-! ### The squaring loop -/

/-- The loop head of the test of `s` after `i` squarings (R126): the `i`-th residue of the witness in `R`, the one before it
in `LASTM`. -/
def State.squareHead (s : State) (i : Nat) : State :=
  { s with
    R := BitVec.ofNat 64 (squareResidue s.WIT.toNat s.D.toNat s.N.toNat i),
    LASTM := if i = 0 then s.LASTM else BitVec.ofNat 64 (squareResidue s.WIT.toNat s.D.toNat s.N.toNat (i - 1)),
    I := BitVec.ofNat 64 i, phase := .rmSq }

theorem State.squareHead_R_toNat {s : State} (hN : 0 < s.N.toNat) (i : Nat) :
    (s.squareHead i).R.toNat = squareResidue s.WIT.toNat s.D.toNat s.N.toNat i := toNat_ofNat_mod hN _

theorem State.squareHead_LASTM_toNat {s : State} (hN : 0 < s.N.toNat) (i : Nat) :
    (s.squareHead (i + 1)).LASTM.toNat = squareResidue s.WIT.toNat s.D.toNat s.N.toNat i := toNat_ofNat_mod hN _

theorem State.squareHead_I_toNat {s : State} {i : Nat} (h : i ≤ s.S.toNat) : (s.squareHead i).I.toNat = i :=
  (BitVec.toNat_ofNat ..).trans (Nat.mod_eq_of_lt (h.trans_lt s.S.isLt))

theorem State.squareHead_I_eq_iff {s : State} {i : Nat} (h : i ≤ s.S.toNat) : (s.squareHead i).I = s.S ↔ i = s.S.toNat := by
  rw [← BitVec.toNat_inj, State.squareHead_I_toNat h]

/-- One squaring from a loop head: to the verdict if it gives 1, to the next loop head if not. -/
theorem reaches_squareHead_succ {s : State} (hpend : s.pending = []) (hN : 0 < s.N.toNat) {i : Nat} (hi : i < s.S.toNat)
    (hfit : ¬ SquareOverflows s.WIT.toNat s.D.toNat s.N.toNat i) :
    Reaches (s.squareHead i)
      { s.squareHead (i + 1) with
        phase := if squareResidue s.WIT.toNat s.D.toNat s.N.toNat (i + 1) = 1 then .rmVerdict else .rmSq } := by
  have hI : (s.squareHead i).I ≠ s.S := mt (State.squareHead_I_eq_iff hi.le).1 hi.ne
  have hR := State.squareHead_R_toNat hN i
  have hlt := s.S.isLt
  have hsquare := reaches_square (s := s.squareHead i) rfl hpend hN hI (by rw [hR]; exact not_squareOverflows_iff.1 hfit)
  rw [hR, show (s.squareHead i).N = s.N from rfl, squareResidue_succ,
    succ_eq_ofNat (by rw [State.squareHead_I_toNat hi.le]; omega), State.squareHead_I_toNat hi.le] at hsquare
  exact hsquare

/-- The loop comes to the head of its last squaring. -/
theorem reaches_lastSquaring {s : State} (hpend : s.pending = []) (hN : 0 < s.N.toNat) {l : Nat}
    (hlast : LastSquaring s.WIT.toNat s.D.toNat s.N.toNat s.S.toNat l) {i : Nat} (hi : i ≤ l) :
    Reaches (s.squareHead 0) (s.squareHead i) := by
  induction i with
  | zero => exact reaches_of_runs (runs_zero _)
  | succ i ih =>
    have hlt := hlast.lt
    have hone := reaches_squareHead_succ hpend hN (i := i) (by omega) (hlast.fits i hi)
    rw [if_neg (hlast.ne_one _ hi)] at hone
    exact (ih (by omega)).trans hone

/-- A last squaring that fits leads to `RM_VERDICT`, by the early exit or because all squarings are done (R121, R122). -/
theorem reaches_rmVerdict {s : State} (hpend : s.pending = []) (hN : 0 < s.N.toNat) {l : Nat}
    (hlast : LastSquaring s.WIT.toNat s.D.toNat s.N.toNat s.S.toNat l)
    (hfit : ¬ SquareOverflows s.WIT.toNat s.D.toNat s.N.toNat l) :
    Reaches (s.squareHead 0) { s.squareHead (l + 1) with phase := .rmVerdict } := by
  have hsquare := reaches_squareHead_succ hpend hN hlast.lt hfit
  refine (reaches_lastSquaring hpend hN hlast (Nat.le_refl l)).trans ?_
  by_cases hone : squareResidue s.WIT.toNat s.D.toNat s.N.toNat (l + 1) = 1
  · rw [if_pos hone] at hsquare
    exact hsquare
  · rw [if_neg hone] at hsquare
    have hall : (s.squareHead (l + 1)).I = s.S := (State.squareHead_I_eq_iff hlast.lt).2 (hlast.stops hfit hone)
    exact hsquare.trans (reaches_of_step (step_microStep (i := .rmSq) hpend rfl rfl
      (execRmSq_leave (s := s.squareHead (l + 1)) hall)))

/-- A last squaring that overflows faults at its loop head (R121). -/
theorem reaches_squareFault {s : State} (hpend : s.pending = []) (hN : 0 < s.N.toNat) {l : Nat}
    (hlast : LastSquaring s.WIT.toNat s.D.toNat s.N.toNat s.S.toNat l)
    (hov : SquareOverflows s.WIT.toNat s.D.toNat s.N.toNat l) :
    Reaches (s.squareHead 0) ((s.squareHead l).raiseFault .overflow) := by
  have hI : (s.squareHead l).I ≠ s.S := mt (State.squareHead_I_eq_iff hlast.lt.le).1 hlast.lt.ne
  have hge : 2 ^ 64 ≤ (s.squareHead l).R.toNat * (s.squareHead l).R.toNat := by rw [State.squareHead_R_toNat hN]; exact hov
  exact (reaches_lastSquaring hpend hN hlast (Nat.le_refl l)).trans
    (reaches_of_step (step_microStep (i := .rmSq) hpend rfl rfl (execRmSq_overflow hI hge)))

/-! ### The whole test -/

/-- The block after the hand-over, with nothing pending after it: the witness in `A` and `WIT`, and the candidate with its
decomposition (R114, R117). -/
structure State.TestStarts (s : State) : Prop where
  phase : s.phase = .xStart
  mode : s.mode = .rm
  pending : s.pending = []
  base : s.A = s.WIT
  operands : Decomposition s.N.toNat s.D.toNat s.S.toNat

/-- No product of the exponentiation of the witness overflows (R119). -/
def State.ProductsFit (s : State) : Prop :=
  ∀ k, 1 ≤ k → k < s.D.toNat → ¬ Overflows (s.WIT.toNat % s.N.toNat) s.N.toNat k

theorem State.TestStarts.N_pos {s : State} (h : s.TestStarts) : 0 < s.N.toNat := by
  have := h.operands.candidate_ge
  omega

theorem State.TestStarts.D_pos {s : State} (h : s.TestStarts) : 0 < s.D.toNat := by
  have := h.operands.odd
  omega

/-- `RM_FIRST` of the test of `s`: the witness reduced, its `D`-th power in `R`, no multiplication left (R119). -/
def State.exponentiated (s : State) : State :=
  { s with
    A := BitVec.ofNat 64 (s.WIT.toNat % s.N.toNat),
    R := BitVec.ofNat 64 (squareResidue s.WIT.toNat s.D.toNat s.N.toNat 0), CNT := 0#64, phase := .rmFirst }

theorem State.TestStarts.reaches_exponentiated {s : State} (h : s.TestStarts) (hfit : s.ProductsFit) :
    Reaches s s.exponentiated := by
  have hD : s.D ≠ 0#64 := ne_zero_of_toNat_pos h.D_pos
  have hrun := runs_exponentiation h.phase h.pending (ne_zero_of_toNat_pos h.N_pos) (h.base ▸ hfit)
  rw [if_neg hD, if_neg hD, h.base, ← squareResidue_zero, State.xexit_rm] at hrun
  · exact ⟨_, hrun⟩
  · exact h.mode

theorem State.exponentiated_R_toNat {s : State} (hN : 0 < s.N.toNat) :
    s.exponentiated.R.toNat = squareResidue s.WIT.toNat s.D.toNat s.N.toNat 0 := toNat_ofNat_mod hN _

/-- The first test answers 1 on the power 1 (R120). -/
theorem State.TestStarts.reaches_firstVerdict {s : State} (h : s.TestStarts) (hfit : s.ProductsFit)
    (hone : squareResidue s.WIT.toNat s.D.toNat s.N.toNat 0 = 1) :
    Reaches s { s.exponentiated with verdict := true, phase := .done } := by
  have hR : s.exponentiated.R = 1#64 := BitVec.eq_of_toNat_eq ((State.exponentiated_R_toNat h.N_pos).trans hone)
  exact (h.reaches_exponentiated hfit).trans
    (reaches_of_step (step_microStep (i := .rmFirst) h.pending rfl rfl (execRmFirst_one hR)))

/-- Any other power is the first value of the squaring loop (R120). -/
theorem State.TestStarts.reaches_loop {s : State} (h : s.TestStarts) (hfit : s.ProductsFit)
    (hne : squareResidue s.WIT.toNat s.D.toNat s.N.toNat 0 ≠ 1) : Reaches s (s.exponentiated.squareHead 0) := by
  have hR : s.exponentiated.R ≠ 1#64 := fun e =>
    hne ((State.exponentiated_R_toNat h.N_pos).symm.trans (congrArg BitVec.toNat e))
  exact (h.reaches_exponentiated hfit).trans
    (reaches_of_step (step_microStep (i := .rmFirst) h.pending rfl rfl (execRmFirst_ne_one hR)))

/-- The loop answers the verdict on the values before and after its last squaring (R123). -/
theorem State.TestStarts.reaches_loopVerdict {s : State} (h : s.TestStarts) (hfit : s.ProductsFit) {l : Nat}
    (hlast : LastSquaring s.WIT.toNat s.D.toNat s.N.toNat s.S.toNat l)
    (hsq : ¬ SquareOverflows s.WIT.toNat s.D.toNat s.N.toNat l) :
    Reaches s
      { s.exponentiated.squareHead (l + 1) with
        verdict := decide (squareResidue s.WIT.toNat s.D.toNat s.N.toNat (l + 1) = 1 ∧
          squareResidue s.WIT.toNat s.D.toNat s.N.toNat l = s.N.toNat - 1),
        phase := .done } := by
  have hverdict := step_microStep (s := { s.exponentiated.squareHead (l + 1) with phase := .rmVerdict }) (i := .rmVerdict)
    h.pending rfl rfl (execRmVerdict_toNat (ne_zero_of_toNat_pos h.N_pos))
  simp only [State.squareHead_R_toNat (s := s.exponentiated) h.N_pos,
    State.squareHead_LASTM_toNat (s := s.exponentiated) h.N_pos] at hverdict
  exact (h.reaches_loop hfit (hlast.ne_one 0 (Nat.zero_le l))).trans
    ((reaches_rmVerdict (s := s.exponentiated) h.pending h.N_pos hlast hsq).trans (reaches_of_step hverdict))

/-- A product that overflows faults in `X_MUL` (R93, R125). -/
theorem State.TestStarts.reaches_productFault {s : State} (h : s.TestStarts) {j : Nat} (h1 : 1 ≤ j) (hj : j < s.D.toNat)
    (hfit : ∀ i, 1 ≤ i → i < j → ¬ Overflows (s.WIT.toNat % s.N.toNat) s.N.toNat i)
    (hov : Overflows (s.WIT.toNat % s.N.toNat) s.N.toNat j) : Reaches s ((s.multiplyHead j).raiseFault .overflow) :=
  ⟨_, runs_exponentiation_overflow h.phase h.pending (ne_zero_of_toNat_pos h.N_pos) h1 hj (h.base ▸ hfit) (h.base ▸ hov)⟩

/-- A square that overflows faults in `RM_SQ` (R121, R125). -/
theorem State.TestStarts.reaches_squareFault {s : State} (h : s.TestStarts) (hfit : s.ProductsFit) {l : Nat}
    (hlast : LastSquaring s.WIT.toNat s.D.toNat s.N.toNat s.S.toNat l)
    (hov : SquareOverflows s.WIT.toNat s.D.toNat s.N.toNat l) :
    Reaches s ((s.exponentiated.squareHead l).raiseFault .overflow) :=
  (h.reaches_loop hfit (hlast.ne_one 0 (Nat.zero_le l))).trans
    (Machine.reaches_squareFault (s := s.exponentiated) h.pending h.N_pos hlast hov)

/-! ### The hand-over -/

/-- The block after the hand-over of `w` with nothing pending after it (R117). -/
def State.tested (s : State) (w : Word) : State := { s with WIT := w, A := w, phase := .xStart, pending := [] }

theorem State.tested_starts {s : State} (w : Word) (hm : s.mode = .rm) (hcand : s.OddCandidate) (hdec : s.Decomposed) :
    (s.tested w).TestStarts := by
  obtain ⟨hodd, hge⟩ := hcand
  obtain ⟨hD, hprod, -⟩ := hdec
  exact ⟨rfl, hm, rfl, rfl, hodd, hge, s.N.isLt, hD, hprod⟩

theorem reaches_tested {s : State} {w : Word} (hp : s.phase = .rmDraw) (hpend : s.pending = [.hostWrite .wit w]) :
    Reaches s (s.tested w) := by
  have hstep := step_handOver (State.event_cons hpend) hp
  rw [State.advance_eq (u := s.handOver w) hpend] at hstep
  exact reaches_of_step hstep

end Sys2Proof.Machine
end

section
/-! SUPPORT. The family `41_rabin_miller.md`: the statements it settles. -/

namespace Sys2Proof.Machine

/-- Settles O21: the two branches of `RM_DECOMP`, and its loop; `D` below `2^64` leaves room for 63 halvings. -/
theorem rmDecompStep : Obligations.RmDecompStep := by
  intro s hp
  refine ⟨fun heven hS => ?halve, fun hodd => execRmDecomp_leave hodd, fun d k hd hD hS hpend => ?loop⟩
  case halve => exact (execRmDecomp_halve heven).trans (by rw [shiftRight_one_eq_ofNat, succ_eq_ofNat hS])
  case loop =>
    have hpos : 0 < s.D.toNat := hD ▸ Nat.mul_pos (by omega) (Nat.two_pow_pos k)
    exact ⟨exponent_le_of_mul_two_pow hD hpos s.D.isLt, runs_rmDecomp hp hpend hd hD hS⟩

/-- Settles O22: the flags of the hold, its turn that changes nothing, and O59's list of what writes `phase`. -/
theorem rmDrawHolds : Obligations.RmDrawHolds := by
  intro s hp hinv
  obtain ⟨⟨-, hge⟩, -⟩ := (State.operandInv_of_inv hinv).test (hinv.rmMode (by simp [hp])) (by simp [hp])
  have hN : s.N ≠ 0#64 := ne_zero_of_toNat_pos (by omega)
  have hmax : s.wmax.toNat = s.N.toNat - 1 := s.wmax_toNat.trans (if_neg hN)
  obtain ⟨hbusy, -⟩ := s.statusWord_bits
  refine ⟨?wreq, State.statusWord_wreq_iff.2 hp, hbusy.trans (State.busy_iff.2 (by simp [hp])), rfl, hmax,
    hmax.symm ▸ Nat.le_sub_of_add_le hge, fun hno => ?hold, fun hpend k => ?stays, fun t h hne => ?leave⟩
  case wreq => rw [s.levels_eq]; exact State.wreq_iff.2 hp
  case hold =>
    refine execRmDraw_hold fun w he => ?_
    obtain ⟨rest, hpend⟩ := State.pending_of_event he (by simp)
    exact hno w rest hpend
  case stays =>
    have hfixed := step_turn_without_step (State.event_nil hpend) (.inr (.inl hp))
    exact runs_of_fixed (hfixed.trans (by rw [State.advance_nil hpend])) k
  case leave =>
    obtain ⟨-, hstep⟩ | ⟨_, _, -, hacc, -⟩ | ⟨w, rest, hpend, -⟩ | ⟨rest, hpend, -⟩ := phaseWriters s t h (hp ▸ hne)
    · simp [hp] at hstep
    · simp [hp] at hacc
    · exact .inl ⟨w, rest, hpend⟩
    · exact .inr ⟨rest, hpend⟩

/-- Settles O26: the branches of `RM_SQRED`, and its loop. -/
theorem rmSqredStepAndLoop : Obligations.RmSqredStepAndLoop := by
  intro s hp
  refine ⟨fun hle => ?_, fun hlt hR => ?_, fun hlt hR => ?_, fun hN hpend => runs_rmSqred hp hpend hN⟩
  · exact (execRmSqred_subtract hle).trans (by rw [sub_eq_ofNat hle])
  · exact (execRmSqred_leave hlt).trans (by rw [if_pos hR])
  · exact (execRmSqred_leave hlt).trans (by rw [if_neg hR])

/-- Settles O42: the verdict steps of `RM_FIRST` and `RM_VERDICT`. -/
theorem verdictStepIsStrongProbablePrime : Obligations.VerdictStepIsStrongProbablePrime := by
  intro s t hinv hres hp hturn h hdone
  have he := State.event_sequencer.2 hturn
  have hop := State.operandInv_of_inv hinv
  have hpr := State.phaseResidue_of_residueInv hres
  obtain hp | hp : s.phase = .rmFirst ∨ s.phase = .rmVerdict := by simpa using hp
  · exact verdict_iff_of_rmFirst hp hop hpr he h hdone
  · exact verdict_iff_of_rmVerdict hp hop hpr he h

/-- Settles O20: the branches of `RM_CHECK` in their order. -/
theorem rmCheckStep : Obligations.RmCheckStep := by
  intro s hp
  refine ⟨fun hN => execRmCheck_two hN, fun hN heven => execRmCheck_even hN heven, fun hN => ?one, fun hodd hge => ?odd⟩
  case one => exact (execRmCheck_one hN).trans (by rw [State.raiseFault, hp])
  case odd =>
    have hN : s.N ≠ 0#64 := ne_zero_of_toNat_pos (by omega)
    exact (execRmCheck_odd hodd hge).trans (by rw [pred_eq_ofNat hN])

/-- Settles O23: the write is taken in `RM_DRAW` alone. -/
theorem witnessHandOver : Obligations.WitnessHandOver := by
  intro s w rest hpend
  have he : s.event = .hostWrite .wit w := State.event_cons hpend
  refine ⟨fun hp => ⟨execRmDraw_handOver he, ?_⟩, fun hp => step_dropped hpend (by simp [State.TakesWrite, hp])⟩
  rw [step_handOver he hp, State.advance_eq (u := s.handOver w) hpend]
  rfl

/-- Settles O24: the two branches of `RM_FIRST`. -/
theorem rmFirstStep : Obligations.RmFirstStep := fun _ _ => ⟨execRmFirst_one, execRmFirst_ne_one⟩

/-- Settles O25: the branches of `RM_SQ` in their order; below `S`, `I` has a successor. -/
theorem rmSqStep : Obligations.RmSqStep := by
  intro s hp hIS
  refine ⟨fun hI => execRmSq_leave hI, fun hI hge => ?overflow, fun hI hlt => ?square, two_pow_64_le_mul_self_iff,
    fun hR hN => ?bound⟩
  case overflow => exact (execRmSq_overflow hI hge).trans (by rw [State.raiseFault, hp])
  case square =>
    have hne : s.I.toNat ≠ s.S.toNat := fun e => hI (BitVec.eq_of_toNat_eq e)
    have hS := s.S.isLt
    exact ⟨_, _, (BitVec.toNat_ofNat ..).trans (Nat.mod_eq_of_lt hlt), toNat_add_one (by omega), execRmSq_square hI hlt⟩
  case bound => exact Nat.not_le.1 (mt two_pow_64_le_mul_self_iff.1 (by omega))

/-- Settles O27: the test of `RM_VERDICT`, where `N - 1` does not wrap. -/
theorem rmVerdictStep : Obligations.RmVerdictStep := by
  intro s hp hge
  have hN : s.N ≠ 0#64 := ne_zero_of_toNat_pos (by omega)
  refine ⟨fun hR hlast => ?_, fun hne => ?_⟩
  · exact (execRmVerdict_toNat hN).trans (by rw [decide_eq_true ⟨hR, hlast⟩])
  · exact (execRmVerdict_toNat hN).trans (by rw [decide_eq_false hne])

/-- Settles O50: the command's step and the step of `RM_CHECK`. -/
theorem rmtestWithoutDraw : Obligations.RmtestWithoutDraw := by
  intro s hp hpend
  refine ⟨fun heven => runs_rmtest hp hpend (runs_one ?even), fun hN => runs_rmtest hp hpend (runs_one ?one)⟩
  case even =>
    by_cases hN : s.N = 2#64
    · rw [decide_eq_true hN]
      exact step_microStep (i := .rmCheck) rfl rfl rfl (execRmCheck_two (s := s.rmtestStarted) hN)
    · rw [decide_eq_false hN]
      exact step_microStep (i := .rmCheck) rfl rfl rfl (execRmCheck_even (s := s.rmtestStarted) hN heven)
  case one => exact step_microStep (i := .rmCheck) rfl rfl rfl (execRmCheck_one (s := s.rmtestStarted) hN)

/-- Settles O51: the command's step, the step of `RM_CHECK`, and the decomposition of `N - 1`. -/
theorem rmtestReachesTheDraw : Obligations.RmtestReachesTheDraw := by
  intro s d k hp hpend hcand hd hdk
  rw [Nat.add_comm 1]
  exact runs_rmtest hp hpend (runs_to_rmDraw (s := s.rmtestStarted) rfl rfl hcand hd hdk)

/-- Settles O52: an `RMTest` that is a verdict ends at the first test or at the verdict on its last squaring, and the machine
comes to the same end. -/
theorem rmtestRunsToItsVerdict : Obligations.RmtestRunsToItsVerdict := by
  intro s w v hp hm hcand hdec hpend hv
  have hstart : (s.tested w).TestStarts := State.tested_starts w hm hcand hdec
  have hNpos : 0 < s.N.toNat := hstart.N_pos
  have hA : (BitVec.ofNat 64 (w.toNat % s.N.toNat)).toNat = w.toNat % s.N.toNat := toNat_ofNat_mod hNpos _
  rw [← squareResidue_zero]
  have hend := hv ▸ rmTest_end hstart.operands w.toNat
  cases hend with
  | first hfit hone =>
    obtain ⟨k, hrun⟩ := (reaches_tested hp hpend).trans (hstart.reaches_firstVerdict hfit hone)
    have hR : (s.tested w).exponentiated.R = 1#64 :=
      BitVec.eq_of_toNat_eq ((State.exponentiated_R_toNat hstart.N_pos).trans hone)
    exact ⟨k, _, hrun, rfl, hm, rfl, rfl, rfl, rfl, rfl, hA, rfl, rfl, rfl, rfl, fun _ => hR, fun _ => ⟨hR, rfl, rfl⟩,
      fun hne => absurd hone hne⟩
  | @verdict l hfit hlast hsq =>
    obtain ⟨k, hrun⟩ := (reaches_tested hp hpend).trans (hstart.reaches_loopVerdict hfit hlast hsq)
    have hI := State.squareHead_I_toNat (s := (s.tested w).exponentiated) hlast.lt
    have hR := State.squareHead_R_toNat (s := (s.tested w).exponentiated) hNpos (l + 1)
    have hL := State.squareHead_LASTM_toNat (s := (s.tested w).exponentiated) hNpos l
    refine ⟨k, _, hrun, rfl, hm, rfl, rfl, rfl, rfl, rfl, hA, rfl, rfl, rfl, rfl, fun htrue => ?prime,
      fun hone => absurd hone (hlast.ne_one 0 (Nat.zero_le l)), fun _ => ?registers⟩
    case prime =>
      obtain ⟨hone, -⟩ := of_decide_eq_true htrue
      exact BitVec.eq_of_toNat_eq (hR.trans hone)
    case registers =>
      dsimp only
      rw [hI]
      exact ⟨Nat.le_add_left .., hlast.lt, hL, hR⟩

/-- Settles O53: an `RMTest` that is a fault ends at the first product or square that overflows, and so does the machine. -/
theorem rmtestRunsToItsFault : Obligations.RmtestRunsToItsFault := by
  intro s w c hp hm hcand hdec hpend hc
  have hstart : (s.tested w).TestStarts := State.tested_starts w hm hcand hdec
  have hend := hc ▸ rmTest_end hstart.operands w.toNat
  cases hend with
  | productOverflow h1 hj hfit hov =>
    obtain ⟨k, hrun⟩ := (reaches_tested hp hpend).trans (hstart.reaches_productFault h1 hj hfit hov)
    exact ⟨rfl, k, _, hrun, rfl, rfl, .inl rfl, rfl, rfl, rfl⟩
  | squareOverflow hfit hlast hov =>
    obtain ⟨k, hrun⟩ := (reaches_tested hp hpend).trans (hstart.reaches_squareFault hfit hlast hov)
    exact ⟨rfl, k, _, hrun, rfl, rfl, .inr rfl, rfl, rfl, rfl⟩

/-- Settles O49: halving ends with the decomposition, and there is only one. -/
theorem decompositionLaw : Obligations.DecompositionLaw := by
  intro n hodd hge hlt
  obtain ⟨d, k, h⟩ := exists_decomposition hodd hge hlt
  obtain ⟨hk1, hk63⟩ := h.bounds
  refine ⟨?_, ?_, ?_, ?_, fun d' k' hd' hdk' => (Decomposition.splitEven_eq ⟨hodd, hge, hlt, hd', hdk'⟩).symm⟩ <;>
    rw [h.splitEven_eq]
  exacts [h.odd, hk1, hk63, h.mul_two_pow]

/-- Settles O54: what the verdict decides. -/
theorem verdictMeaning : Obligations.VerdictMeaning := by
  intro n w d k v hodd hge hlt hd hdk hv
  exact Decomposition.verdict_iff ⟨hodd, hge, hlt, hd, hdk⟩ hv

/-- Settles O55: `(n - 1)^d` is `n - 1`, since `d` is odd. -/
theorem largestWitnessAlwaysPasses : Obligations.LargestWitnessAlwaysPasses := by
  intro n v hodd hge hlt hv
  obtain ⟨d, k, h⟩ := exists_decomposition hodd hge hlt
  exact (h.verdict_iff hv).2 h.passesTest_pred

/-- Settles O58: 2 is answered at once; for an odd prime nothing overflows, and the condition holds. -/
theorem primesAlwaysPass : Obligations.PrimesAlwaysPass := by
  intro n w hp hle hw hwn
  obtain rfl | hodd := hp.eq_two_or_odd
  · rfl
  · have hge : 3 ≤ n := by omega
    obtain ⟨d, k, h⟩ := exists_decomposition hodd hge (by omega)
    obtain ⟨v, hv⟩ := h.rmTest_verdict_of_le hle w
    have hcop : Nat.Coprime w n := (Nat.coprime_of_lt_prime (by omega) (by omega) hp).symm
    rw [hv, (h.verdict_iff hv).2 (h.passesTest_of_prime hp hcop)]

end Sys2Proof.Machine
end

section
/-! SUPPORT. Which transitions enter `FAULT`, with which code and on what condition (R140 to R145). -/

namespace Sys2Proof.Machine

/-- The conditions of R140, one for each phase and code. -/
inductive State.FaultCause (s : State) : ErrCode → Prop
  | zeroModulus (hp : s.phase = .xStart) (hN : s.N = 0#64) : FaultCause s .nZero
  | product (hp : s.phase = .xMul) (hC : s.CNT ≠ 0#64) (hbig : 2 ^ 64 ≤ s.R.toNat * s.A.toNat) : FaultCause s .overflow
  | square (hp : s.phase = .rmSq) (hI : s.I ≠ s.S) (hbig : 2 ^ 64 ≤ s.R.toNat * s.R.toNat) : FaultCause s .overflow
  | candidateOne (hp : s.phase = .rmCheck) (hN : s.N = 1#64) : FaultCause s .domain
  | illegalCommand (ha : s.phase.accepts = true) (v : Word) (he : s.event = .hostWrite .cmd v) (h1 : v ≠ 1#64)
      (h2 : v ≠ 2#64) : FaultCause s .cmd

theorem State.FaultCause.code_ne_none {s : State} {c : ErrCode} (h : s.FaultCause c) : c ≠ .none := by
  cases h <;> decide

/-- A micro-step enters `FAULT` by raising a fault alone. -/
theorem microStep_enters_fault {s u : State} {i : Instr} (he : s.event = .sequencer) (hf : s.fetch = some i)
    (hu : exec i s = .next u) (hfault : u.phase = .fault) : ∃ c, s.FaultCause c ∧ u = s.raiseFault c := by
  obtain ⟨_, _, _, _, _, _, _, p, _, rfl, hp⟩ | ⟨c, rfl, -, hcause⟩ := microStep_cases he hf hu
  · exact absurd hfault hp
  · refine ⟨c, ?_, rfl⟩
    obtain ⟨rfl, hp, hN⟩ | ⟨rfl, hp, hC, hbig⟩ | ⟨rfl, hp, hI, hbig⟩ | ⟨rfl, hp, hN⟩ := hcause
    · exact .zeroModulus hp hN
    · exact .product hp hC hbig
    · exact .square hp hI hbig
    · exact .candidateOne hp hN

/-- Of the host's writes the illegal command word alone enters `FAULT` (R63, R145). -/
theorem HostWrite.enters_fault {s u : State} {slot : Slot} {v : Word} (hw : HostWrite s slot v u)
    (he : s.event = .hostWrite slot v) (hs : s.phase ≠ .fault) (hfault : u.phase = .fault) :
    ∃ c, s.FaultCause c ∧ u = s.raiseFault c := by
  cases hw with
  | operandA | operandD | operandN | dropped => exact absurd hfault hs
  | expmod | rmtest | witness => cases hfault
  | illegal v ha h1 h2 => exact ⟨.cmd, .illegalCommand ha v he h1 h2, rfl⟩

/-- `raiseFault` on a cause of R140 is the only way into `FAULT`. -/
theorem Transition.enters_fault {s u : State} (hu : Transition s u) (hs : s.phase ≠ .fault) (hfault : u.phase = .fault) :
    ∃ c, s.FaultCause c ∧ u = s.raiseFault c := by
  cases hu with
  | idleTurn | hostRead => exact absurd hfault hs
  | microStep he hf hi hu => exact microStep_enters_fault he hf hu hfault
  | hostWrite he hw => exact hw.enters_fault he hs hfault
  | reset => cases hfault

/-- What a step into `FAULT` does, and why it does it. -/
theorem step_enters_fault {s t : State} (hs : s.phase ≠ .fault) (h : step s = .next t) (hfault : t.phase = .fault) :
    ∃ c, s.FaultCause c ∧ t = (s.raiseFault c).advance := by
  obtain ⟨u, hu, rfl⟩ := transition_of_step h
  obtain ⟨c, hcause, rfl⟩ := hu.enters_fault hs hfault
  exact ⟨c, hcause, rfl⟩

/-- In an `RMTEST` the exponentiator starts on an odd candidate, so a zero modulus there is an `EXPMOD`'s (R34 item 5,
R142). -/
theorem State.OperandInv.mode_of_zero_modulus {s : State} (h : s.OperandInv) (hp : s.phase = .xStart) (hN : s.N = 0#64) :
    s.mode = .exp := by
  cases hm : s.mode with
  | exp => rfl
  | rm =>
    obtain ⟨⟨hodd, -⟩, -⟩ := h.test hm (by simp [hp])
    simp [hN] at hodd

/-- What `STATUS` and the output `fault` show in `FAULT` (R27, R30). -/
theorem State.status_of_fault {s : State} (hp : s.phase = .fault) :
    s.statusWord[2] = true ∧ s.statusWord[0] = false ∧ s.statusWord[1] = false ∧ s.levels.fault = true := by
  obtain ⟨hbusy, hdone, hfault, -⟩ := s.statusWord_bits
  rw [hbusy, hdone, hfault, s.levels_eq]
  simp [State.busy, State.done, State.fault, Phase.busy, hp]

end Sys2Proof.Machine
end

section
/-! SUPPORT. The family `60_exceptions.md`: the statements it settles. -/

namespace Sys2Proof.Machine

/-- Settles O28: the step is `raiseFault` and the schedule moving on, and each cause has a code. -/
theorem faultEntryChangesThreeFields : Obligations.FaultEntryChangesThreeFields := by
  intro s t hs h hfault
  obtain ⟨c, hcause, rfl⟩ := step_enters_fault hs h hfault
  exact ⟨rfl, hcause.code_ne_none, State.status_of_fault hfault⟩

/-- Settles O29, cause by cause; the invariants are needed for the mode of a zero modulus alone. -/
theorem faultCauses : Obligations.FaultCauses := by
  intro s t hinv hs h hfault
  obtain ⟨c, hcause, rfl⟩ := step_enters_fault hs h hfault
  cases hcause with
  | zeroModulus hp hN => exact .inl ⟨rfl, hp, (State.operandInv_of_inv hinv).mode_of_zero_modulus hp hN, hN⟩
  | product hp hC hbig => exact .inr (.inl ⟨rfl, hp, hC, hbig⟩)
  | square hp hI hbig => exact .inr (.inr (.inl ⟨rfl, hp, hI, hbig⟩))
  | candidateOne hp hN => exact .inr (.inr (.inr (.inl ⟨rfl, hp, hN⟩)))
  | illegalCommand ha v he h1 h2 =>
    obtain ⟨rest, hpend⟩ := State.pending_of_event he (by simp)
    exact .inr (.inr (.inr (.inr ⟨rfl, Phase.accepts_iff.1 ha, v, rest, hpend, h1, h2⟩)))

end Sys2Proof.Machine
end

section
/-! SUPPORT. What `RMTest` answers to the witnesses outside the range to be drawn, and on the candidates that draw none
(R112, R181). -/

namespace Sys2Proof.Machine

/-- `ModExp` reduces its base first (R92). -/
theorem modExp_base_mod (a d n : Nat) : modExp (a % n) d n = modExp a d n := by simp only [modExp, Nat.mod_mod]

/-- No product by a base of at most 1 overflows, so `ModExp` answers the power (R96). -/
theorem modExp_of_base_le_one {a n : Nat} (hpos : 0 < n) (hlt : n < 2 ^ 64) (ha : a ≤ 1) (d : Nat) :
    modExp a d n = .ok (a ^ d % n) :=
  modExp_ok hpos.ne' fun k _ _ => not_overflows_of_base_le_one hpos hlt ((Nat.mod_le a n).trans ha) k

/-- The squaring loop stays at 0, and so never comes to 1. -/
theorem squareFrom_zero_value (n k : Nat) : squareFrom n k 0 = .ok false := by
  induction k with
  | zero => rfl
  | succ k ih => simp [squareFrom, ih]

/-- A witness acts as its remainder (R181). -/
theorem rmTest_witness_mod (n w : Nat) : rmTest n (w % n) = rmTest n w := by simp only [rmTest, modExp_base_mod]

/-- The witness 0 gives "composite": its power is 0 (R181). -/
theorem Decomposition.rmTest_zero {n d k : Nat} (h : Decomposition n d k) : rmTest n 0 = .ok false := by
  obtain ⟨-, hge, hlt, hd, -⟩ := id h
  have hpow : modExp 0 d n = .ok 0 := by
    rw [modExp_of_base_le_one (by omega) hlt (Nat.zero_le 1), Nat.zero_pow (by omega), Nat.zero_mod]
  rw [h.rmTest_ok hpow, if_neg Nat.zero_ne_one, squareFrom_zero_value]

/-- The witness 1 gives "probably prime" at the first test: its power is 1 (R181). -/
theorem Decomposition.rmTest_one {n d k : Nat} (h : Decomposition n d k) : rmTest n 1 = .ok true := by
  obtain ⟨-, hge, hlt, -⟩ := id h
  have hpow : modExp 1 d n = .ok 1 := by
    rw [modExp_of_base_le_one (by omega) hlt (Nat.le_refl 1), Nat.one_pow, Nat.mod_eq_of_lt (by omega)]
  rw [h.rmTest_ok hpow, if_pos rfl]

/-- The candidate 2 is answered before anything is computed (R112). -/
theorem rmTest_two (w : Nat) : rmTest 2 w = .ok true := if_pos rfl

/-- So is every other even candidate, 0 among them (R112). -/
theorem rmTest_even {n : Nat} (hne : n ≠ 2) (heven : n % 2 = 0) (w : Nat) : rmTest n w = .ok false :=
  (if_neg hne).trans (if_pos heven)

end Sys2Proof.Machine
end

section
/-! SUPPORT. The family `70_reset_and_hazards.md`: the statements it settles. -/

namespace Sys2Proof.Machine

/-- Settles O31: the reset of R170, and the schedule moving on. -/
theorem resetFromAnyState : Obligations.ResetFromAnyState := by
  intro s rest hpend
  rw [step_reset (State.event_cons hpend), State.advance_eq (u := s.applyReset) hpend]
  rfl

/-- Settles O33: the sequencer has no step in `IDLE` and `DONE`; of what writes `phase` (O59) only a command and reset are
left there. -/
theorem resetStartsNothing : Obligations.ResetStartsNothing := by
  intro s hp
  have hturn (he : s.event = .sequencer) : step s = .next s.advance := step_turn_without_step he (by tauto)
  refine ⟨fun hpend => hturn (State.event_sequencer.2 hpend), fun hpend k => ?stays, fun t h hne => ?leave⟩
  case stays =>
    exact runs_of_fixed ((hturn (State.event_nil hpend)).trans (by rw [State.advance_nil hpend])) k
  case leave =>
    obtain ⟨-, hstep⟩ | ⟨v, rest, hpend, -⟩ | ⟨_, _, -, hdraw, -⟩ | ⟨rest, hpend, -⟩ := phaseWriters s t h hne
    · obtain hp | hp := hp <;> simp [hp] at hstep
    · exact .inl ⟨v, rest, hpend⟩
    · obtain hp | hp := hp <;> simp [hp] at hdraw
    · exact .inr ⟨rest, hpend⟩

/-- Settles O56: the powers of 0 and 1 are computed without overflow, and the loop stays at 0. -/
theorem outOfRangeWitnesses : Obligations.OutOfRangeWitnesses := by
  intro n hodd hge hlt
  obtain ⟨d, k, h⟩ := exists_decomposition hodd hge hlt
  exact ⟨h.rmTest_zero, h.rmTest_one, fun w => (rmTest_witness_mod n w).symm⟩

/-- Settles O57, along the cases of `RM_CHECK`: an even candidate is answered at once; on an odd one nothing overflows. -/
theorem rmtestBelowBoundNeverFaults : Obligations.RmtestBelowBoundNeverFaults := by
  intro n w hone hle
  obtain rfl | htwo := eq_or_ne n 2
  · exact ⟨true, rmTest_two w⟩
  · obtain heven | hodd := Nat.mod_two_eq_zero_or_one n
    · exact ⟨false, rmTest_even htwo heven w⟩
    · obtain ⟨d, k, h⟩ := exists_decomposition hodd (by omega) (by omega)
      exact h.rmTest_verdict_of_le hle w

end Sys2Proof.Machine
end
